-- ==== Sys2Proof/Word.lean ====
section
/-! DEFINITION. The two word types of the block: the 32-bit bus word and the 256-bit register value (rules R8, R9). -/

namespace Sys2Proof

/-- A word of the 32-bit host bus, and the width of ID, CAPS, CTRL, CMD, STATUS and IRQ_STATUS (rules R8, R24). -/
abbrev Word := BitVec 32

/-- The contents of a 256-bit register: a natural number in [0, 2^256) (rules R8, R9). -/
abbrev U256 := BitVec 256

/-- One byte of the accelerator port's payload (rules R67, R220). -/
abbrev Byte := BitVec 8

end Sys2Proof
end

