-- ==== Sys2Proof/Machine/HostProgram.lean ====
section
/-! DEFINITION. The host's program as plain data (rule R98's notation): the host is an agent of the model (rule R5). -/

namespace Sys2Proof.Machine

/-- A host-local expression. Values are naturals (rule R9). -/
inductive HostExpr where
  /-- A literal. -/
  | lit (n : Nat)
  /-- The value of host-local variable `x`. -/
  | var (x : Nat)
  /-- Exact sum. -/
  | add (a b : HostExpr)
  /-- Exact product. -/
  | mul (a b : HostExpr)
  /-- Bitwise AND. -/
  | land (a b : HostExpr)
  /-- Bitwise OR. -/
  | lor (a b : HostExpr)
  /-- 1 when the two differ, else 0. -/
  | ne (a b : HostExpr)
  /-- Bits [255 - 32k : 224 - 32k] of the value (rule R61's word k). -/
  | word (a : HostExpr) (k : Nat)
  deriving DecidableEq, Repr

/-- One line of a host program (rule R98). `wr32 off v` is `write 4 off v` and `rd32 x off` is `read 4 x off`: an access
carries its size in bytes, so that the accesses rule R62 rejects can be issued too. -/
inductive HostLine where
  /-- A bus write of `size` bytes at window offset `off`. -/
  | write (size off : Nat) (v : HostExpr)
  /-- A bus read of `size` bytes at window offset `off` into variable `x`. -/
  | read (size x off : Nat)
  /-- Go to the label when variable `x` AND `mask` is not zero. -/
  | bnz (x mask label : Nat)
  /-- Go to the label when variable `x` AND `mask` is zero. -/
  | bz (x mask label : Nat)
  /-- A label. -/
  | label (name : Nat)
  /-- A local computation. -/
  | assign (x : Nat) (e : HostExpr)
  /-- Wait for the interrupt output (rules R75, R250, R282). -/
  | waitIrq
  deriving DecidableEq, Repr

/-- The host agent: its program, the index of its next line, and its local variables. The variables are (variable, value)
pairs in one canonical form: variables strictly rising, no value 0; a variable not listed holds 0. -/
structure HostAgent where
  program : List HostLine
  pos : Nat
  vars : List (Nat × Nat)
  deriving DecidableEq, Repr

end Sys2Proof.Machine
end

