-- ==== Sys2Proof/Syntax.lean ====
section
/-! DEFINITION. The block's instructions: the twelve commands of rule R93, in the opcode map's order. A command word has
no operand, immediate or mode field (rules R90, R92), so no constructor takes an argument. -/

namespace Sys2Proof

/-- A command of the block (rule R93). A word that is none of these is ILLEGAL (rule R91): it has no constructor,
and its completion is the machine's own (`Sys2Proof.Machine.completeIllegal`). -/
inductive Instr where
  /-- INV, opcode 0x1: modular inverse (rule R120). -/
  | inv
  /-- MODEXP, opcode 0x2: modular exponentiation (rule R125). -/
  | modexp
  /-- VALIDATE_KEY, opcode 0x3: public-key validation (rule R140). -/
  | validateKey
  /-- CHECK_SIG, opcode 0x4: signature range and low-s check (rule R145). -/
  | checkSig
  /-- JADD, opcode 0x5: Jacobian addition (rule R161). -/
  | jadd
  /-- JDBL, opcode 0x6: Jacobian doubling (rule R163). -/
  | jdbl
  /-- TOAFFINE, opcode 0x7: affine reduction (rule R165). -/
  | toaffine
  /-- BUILD_TABLE, opcode 0x8: fill the table store (rule R182). -/
  | buildTable
  /-- SHAMIR, opcode 0x9: double-scalar multiplication with the stored table (rule R190). -/
  | shamir
  /-- VERIFY, opcode 0xA: signature verification (rule R211). -/
  | verify
  /-- VERIFY_STRICT, opcode 0xB: verification by the accelerator only (rule R215). -/
  | verifyStrict
  /-- RECOVER, opcode 0xC: public-key recovery (rule R230). -/
  | recover
  deriving DecidableEq, Repr

end Sys2Proof
end

