-- ==== Sys2Proof/Machine/State.lean ====
section
/-! DEFINITION. The machine's state as plain data (rules R20 to R46), its faults and refusals, and the state after reset.
The host and the schedule stand beside the block's own state, so that one deterministic step can run the three agents of
rule R5 in the total order of rule R70. -/

namespace Sys2Proof.Machine

/-- The error codes of rule R240; codes 8 to 15 are never raised and have no constructor. -/
inductive ErrCode where
  /-- 0: the command completed normally. -/
  | noError
  /-- 1: the word decodes as ILLEGAL. -/
  | illegalCmd
  /-- 2: a coordinate operand is P or more. -/
  | range
  /-- 3: INV of a value that is 0 modulo a nonzero modulus. -/
  | notInvertible
  /-- 4: modulus 0. -/
  | badModulus
  /-- 5: SHAMIR with TABLE_VALID = 0. -/
  | noTable
  /-- 6: VERIFY_STRICT without an accelerator, or answered UNSUPPORTED. -/
  | accelUnavailable
  /-- 7: the accelerator answered the reserved code. -/
  | accelFault
  deriving DecidableEq, Repr

/-- The fields of STATUS (rule R29). Reserved bits 31..10 read 0 and have no storage. -/
structure Status where
  busy : Bool
  done : Bool
  tableValid : Bool
  busyWrite : Bool
  err : ErrCode
  accelUsed : Bool
  degen : Bool
  deriving DecidableEq, Repr

/-- The stored fields of CTRL (rule R27). SOFT_RESET is write-only and reserved bits are RAZ/WI: neither is stored. -/
structure Ctrl where
  accelEn : Bool
  irqEn : Bool
  deriving DecidableEq, Repr

/-- One entry of the table store: three 256-bit coordinates (rule R33). -/
structure Entry where
  x : U256
  y : U256
  z : U256
  deriving DecidableEq, Repr

/-- The accelerator request's payload (rules R43, R220). -/
structure Payload where
  h : U256
  r : U256
  s : U256
  qx : U256
  qy : U256
  deriving DecidableEq, Repr

/-- The accelerator's response (rule R220): UNSUPPORTED, VALID(b) or RESERVED. -/
inductive AccelResponse where
  | unsupported
  | valid (b : Bool)
  | reserved
  deriving DecidableEq, Repr

/-- What an accepted CMD word decodes to (rule R91). -/
inductive Op where
  | command (i : Instr)
  | illegal
  deriving DecidableEq, Repr

/-- The sequencer (rule R40). -/
inductive Seq where
  /-- No command runs. -/
  | idle
  /-- RUN(op, accel_en): `accelEn` is CTRL.ACCEL_EN sampled at acceptance. -/
  | run (op : Op) (accelEn : Bool)
  /-- WAIT_ACCEL(op, payload). `answer` holds the response between the response event and the completion that follows it
  (rules R70, R220, R281). -/
  | waitAccel (op : Instr) (payload : Payload) (answer : Option AccelResponse)
  deriving DecidableEq, Repr

/-- Which event of rule R70's total order comes next. -/
inductive Turn where
  /-- The host performs its next line: a bus access or a host-local one. -/
  | host
  /-- The sequencer takes its step: a completion, or the sending of a request. -/
  | sequencer
  /-- The accelerator answers with this 2-bit code. -/
  | accelerator (code : BitVec 2)
  /-- A hardware reset. -/
  | hardReset
  deriving DecidableEq, Repr

/-- What a completion step writes (rule R280): the RES values, the table where the command writes it, and the flags. -/
structure Results where
  res0 : U256 := 0
  res1 : U256 := 0
  res2 : U256 := 0
  table : Option (Vector Entry 16) := none
  err : ErrCode := .noError
  accelUsed : Bool := false
  degen : Bool := false
  deriving DecidableEq, Repr

/-- Why the machine stops with a fault. -/
inductive Fault where
  /-- Raised by the host's bus access that rule R62 rejects (rule R241: a fault of the host agent; no state changes). Safe:
  the model stops where the host's platform may go on. -/
  | busError
  deriving DecidableEq, Repr

/-- Why the model has no meaning for an instruction. -/
inductive Refusal where
  /-- Raised only by an arm of `exec` whose instruction has no meaning yet; no arm is such an arm. Safe: nothing can be
  proved of a run that is refused. -/
  | notModelled (mnemonic : String)
  deriving DecidableEq, Repr

/-- The whole state. The fields from `args` to `accelPending` are the block's architectural state, exactly rule R20's list
less what is hardwired (ID, CAPS and the constant ROM); `host`, `turns` and `draws` belong to the other agents and to the
model. -/
structure State where
  /-- ARG0 to ARG5 (rule R21). -/
  args : Vector U256 6
  /-- RES0 to RES2 (rule R22). -/
  res : Vector U256 3
  /-- CTRL (rule R27). -/
  ctrl : Ctrl
  /-- CMD (rule R28): the last accepted word. -/
  cmd : Word
  /-- STATUS (rule R29). -/
  status : Status
  /-- IRQ_STATUS bit 0, DONE_IRQ (rule R30). -/
  doneIrq : Bool
  /-- TABLE[0..15] (rule R33). -/
  table : Vector Entry 16
  /-- The sequencer (rule R40). -/
  seq : Seq
  /-- accel_pending (rule R43); the request's payload stands in `Seq.waitAccel`. -/
  accelPending : Bool
  /-- The host agent (rules R5, R98). -/
  host : HostAgent
  /-- The coming events, next first (rule R70); when it is empty the default turn of `nextTurn` is taken. -/
  turns : List Turn
  /-- How many accelerator responses have been taken: the counter `Config.accelDraw` is applied to. -/
  draws : Nat
  deriving DecidableEq, Repr

/-- The state after reset (rules R46, R270), with a host that has no program and no scheduled event. -/
def State.reset : State where
  args := Vector.replicate 6 0
  res := Vector.replicate 3 0
  ctrl := { accelEn := false, irqEn := false }
  cmd := 0
  status :=
    { busy := false, done := false, tableValid := false, busyWrite := false, err := .noError, accelUsed := false,
      degen := false }
  doneIrq := false
  table := Vector.replicate 16 { x := 0, y := 0, z := 0 }
  seq := .idle
  accelPending := false
  host := { program := [], pos := 0, vars := [] }
  turns := []
  draws := 0

end Sys2Proof.Machine
end

