-- ==== Sys2Proof/Decode.lean ====
section
/-! DEFINITION. The command word's decoder, total on every 32-bit word (rules R90, R91, R93, R96, R97), and the encoder. -/

namespace Sys2Proof

/-- Why a word is ILLEGAL (rule R91). The block reports both the same way, as ILLEGAL_CMD. -/
inductive IllegalWord where
  /-- RSV, bits 31..4, is not zero. -/
  | reservedBits
  /-- RSV is zero and OPC is 0x0, 0xD, 0xE or 0xF. -/
  | unusedOpcode
  deriving DecidableEq, Repr

/-- OPC, bits 3..0 of a command word (rule R90). -/
def opcField (w : Word) : Nat := w.toNat % 16

/-- RSV, bits 31..4 of a command word (rule R90). -/
def rsvField (w : Word) : Nat := w.toNat / 16

/-- The command of an opcode (rule R93's map), none for 0x0, 0xD, 0xE and 0xF. -/
def commandOfOpcode : Nat → Option Instr
  | 0x1 => some .inv
  | 0x2 => some .modexp
  | 0x3 => some .validateKey
  | 0x4 => some .checkSig
  | 0x5 => some .jadd
  | 0x6 => some .jdbl
  | 0x7 => some .toaffine
  | 0x8 => some .buildTable
  | 0x9 => some .shamir
  | 0xA => some .verify
  | 0xB => some .verifyStrict
  | 0xC => some .recover
  | _ => none

/-- Rule R91: a nonzero RSV field is ILLEGAL, then an opcode without a row is ILLEGAL, else the row of rule R93. -/
def decode (w : Word) : Except IllegalWord Instr :=
  if rsvField w ≠ 0 then .error .reservedBits
  else
    match commandOfOpcode (opcField w) with
    | some i => .ok i
    | none => .error .unusedOpcode

/-- The command's opcode, from rule R93's table. -/
def opcodeOf : Instr → Nat
  | .inv => 0x1
  | .modexp => 0x2
  | .validateKey => 0x3
  | .checkSig => 0x4
  | .jadd => 0x5
  | .jdbl => 0x6
  | .toaffine => 0x7
  | .buildTable => 0x8
  | .shamir => 0x9
  | .verify => 0xA
  | .verifyStrict => 0xB
  | .recover => 0xC

/-- The command word of a command: RSV zero, OPC its opcode (rules R90, R93). -/
def encode (i : Instr) : Word := BitVec.ofNat 32 (opcodeOf i)

/-- The word a table row's bits stand for: the low `nbits` bits of `w`, every bit above them zero. A command word is one
32-bit word and the bus moves it whole (rules R67, R68, R97), so no byte order enters. -/
def tableWord (nbits w : Nat) : Word := BitVec.ofNat 32 (w % 2 ^ nbits)

/-- What the decoder reads from a table row's bits. -/
def decodeTableWord (nbits w : Nat) : Option Instr :=
  match decode (tableWord nbits w) with
  | .ok i => some i
  | .error _ => none

end Sys2Proof
end

