-- ==== Sys2Proof/Config.lean ====
section
/-! DEFINITION. What the spec leaves OPEN (rule R8): the implementation's parameters and the accelerator's answers.
None has a body, so no proof can know its value and every statement holds for all of them. -/

namespace Sys2Proof

/-- ACCEL_PRESENT (rules R8, R26): whether an accelerator is connected to the accelerator port. OPEN, 0 or 1. -/
opaque Config.accelPresent : Bool

/-- BASE_ADDR (rules R8, R60, R69): the platform's address of window offset 0. OPEN. -/
opaque Config.baseAddr : Nat

/-- The accelerator's 2-bit answers (rules R8, R220): a draw per request, chosen under no law. The n-th request that
no scheduled turn answers is answered with `Config.accelDraw n`. -/
opaque Config.accelDraw : Nat → BitVec 2

end Sys2Proof
end

