-- ==== Sys2Proof/Machine/Flags.lean ====
section
/-! DEFINITION. The flags: the words of STATUS, CTRL and IRQ_STATUS, what acceptance and completion do to STATUS, and the
interrupt output (rules R27, R29, R30, R45, R95, R250, R280). -/

namespace Sys2Proof.Machine

/-- The code of an error, STATUS bits [7:4] (rule R240). -/
def errCode : ErrCode → Nat
  | .noError => 0
  | .illegalCmd => 1
  | .range => 2
  | .notInvertible => 3
  | .badModulus => 4
  | .noTable => 5
  | .accelUnavailable => 6
  | .accelFault => 7

/-- STATUS as the host reads it (rule R29); bits 31..10 are 0. -/
def statusWord (st : Status) : Word :=
  BitVec.ofNat 32
    (st.busy.toNat + 2 * st.done.toNat + 4 * st.tableValid.toNat + 8 * st.busyWrite.toNat + 16 * errCode st.err +
      256 * st.accelUsed.toNat + 512 * st.degen.toNat)

/-- CTRL as the host reads it (rule R27): SOFT_RESET reads 0. -/
def ctrlWord (c : Ctrl) : Word := BitVec.ofNat 32 (2 * c.accelEn.toNat + 4 * c.irqEn.toNat)

/-- The CTRL fields a write of `w` with SOFT_RESET = 0 stores (rule R27). -/
def ctrlOfWord (w : Word) : Ctrl := { accelEn := w.getLsbD 1, irqEn := w.getLsbD 2 }

/-- IRQ_STATUS as the host reads it (rule R30). -/
def irqStatusWord (doneIrq : Bool) : Word := BitVec.ofNat 32 doneIrq.toNat

/-- STATUS after an accepted CMD write (rule R95); TABLE_VALID is unchanged. -/
def statusAccepted (st : Status) : Status :=
  { st with busy := true, done := false, err := .noError, busyWrite := false, accelUsed := false, degen := false }

/-- STATUS after a completion step (rule R280); BUSY_WRITE is unchanged, and TABLE_VALID is set by a completion that
writes the table (rule R35). -/
def statusCompleted (r : Results) (st : Status) : Status :=
  { st with
    busy := false, done := true, err := r.err, accelUsed := r.accelUsed, degen := r.degen
    tableValid := st.tableValid || r.table.isSome }

/-- STATUS after a CMD or ARG write ignored because BUSY = 1 (rules R29, R63). -/
def statusBusyWrite (st : Status) : Status := { st with busyWrite := true }

/-- The interrupt output: IRQ_EN AND DONE_IRQ (rule R250). -/
def irqOut (s : State) : Bool := s.ctrl.irqEn && s.doneIrq

end Sys2Proof.Machine
end

