-- ==== Sys2Proof/Machine/Curve.lean ====
section
/-! DEFINITION. The constant ROM's values: the P-256 domain parameters of rule R31, as naturals. -/

namespace Sys2Proof.Curve

/-- The field order P (rule R31). -/
def P : Nat := 0xFFFFFFFF00000001000000000000000000000000FFFFFFFFFFFFFFFFFFFFFFFF

/-- The group order N (rule R31). -/
def N : Nat := 0xFFFFFFFF00000000FFFFFFFFFFFFFFFFBCE6FAADA7179E84F3B9CAC2FC632551

/-- The coefficient A = P - 3 (rule R31). -/
def A : Nat := 0xFFFFFFFF00000001000000000000000000000000FFFFFFFFFFFFFFFFFFFFFFFC

/-- The coefficient B (rule R31). -/
def B : Nat := 0x5AC635D8AA3A93E7B3EBBD55769886BC651D06B0CC53B0F63BCE3C3E27D2604B

/-- The generator's x-coordinate (rule R31). -/
def GX : Nat := 0x6B17D1F2E12C4247F8BCE6E563A440F277037D812DEB33A0F4A13945D898C296

/-- The generator's y-coordinate (rule R31). -/
def GY : Nat := 0x4FE342E2FE1A7F9B8EE7EB4A7C0F9E162BCE33576B315ECECBB6406837BF51F5

/-- HALF_N = floor(N/2) (rule R31). -/
def halfN : Nat := 0x7FFFFFFF800000007FFFFFFFFFFFFFFFDE737D56D38BCF4279DCE5617E3192A8

end Sys2Proof.Curve
end

