-- ==== Sys2Proof/Machine/Field.lean ====
section
/-! DEFINITION. Field and scalar primitives (rule R11) and the two arithmetic units' functions (rules R112, R113). Every
value is a natural and every operation exact (rules R9, R110). -/

namespace Sys2Proof.Machine

open Sys2Proof.Curve

/-- addP (rule R11). -/
def addP (a b : Nat) : Nat := (a + b) % P

/-- subP (rule R11): P is added before the difference. -/
def subP (a b : Nat) : Nat := (a + P - b) % P

/-- mulP (rule R11): the exact product reduced, for operands of any size. -/
def mulP (a b : Nat) : Nat := a * b % P

/-- sqrP (rule R11). -/
def sqrP (a : Nat) : Nat := mulP a a

/-- mulN (rule R11): the exact product reduced mod N, for operands of any size. -/
def mulN (a b : Nat) : Nat := a * b % N

/-- `n` rounds of square-and-multiply from the exponent's least significant bit: `acc` times `b` to the low `n` bits
of `e`, mod `m`. -/
def modPowLoop (m : Nat) : Nat → Nat → Nat → Nat → Nat
  | 0, _, _, acc => acc
  | n + 1, b, e, acc => modPowLoop m n (b * b % m) (e / 2) (if e % 2 = 1 then acc * b % m else acc)

/-- modpow's value branch (rule R113): (b ^ e) mod m for m ≠ 0 and a 256-bit exponent, with b^0 = 1.
`Sys2Proof.Laws.modPow_eq` proves it equal to the exact power's remainder. -/
def modPow (b e m : Nat) : Nat := modPowLoop m 256 (b % m) e (1 % m)

/-- modpow (rule R113), with its error for m = 0. -/
def modpow (b e m : Nat) : Except ErrCode Nat :=
  if m = 0 then .error .badModulus else .ok (modPow b e m)

/-- inv's value branch (rule R112): the Fermat form modpow(a, m - 2, m), for m ≥ 2. The block's internal callers use it
directly, since none of them reaches an error case (rule R114). -/
def invValue (a m : Nat) : Nat := modPow a (m - 2) m

/-- inv (rule R112): BAD_MODULUS is checked before NOT_INVERTIBLE (rule R244). -/
def inv (a m : Nat) : Except ErrCode Nat :=
  if m = 0 then .error .badModulus
  else if a % m = 0 then .error .notInvertible
  else .ok (invValue a m)

end Sys2Proof.Machine
end

