-- ==== Sys2Proof/Machine/Points.lean ====
section
/-! DEFINITION. The Jacobian datapath: jadd, jdbl and toAffine, with the degenerate marks (rules R162, R164, R165, R166). -/

namespace Sys2Proof.Machine

open Sys2Proof.Curve

/-- A Jacobian triple on the datapath (rule R13). -/
structure Jac where
  x : Nat
  y : Nat
  z : Nat
  deriving DecidableEq, Repr

/-- An affine pair (rule R13). -/
structure Affine where
  x : Nat
  y : Nat
  deriving DecidableEq, Repr

/-- The identity (0, 0, 0) (rules R34, R190). -/
def jacIdentity : Jac := { x := 0, y := 0, z := 0 }

/-- The sentinel (0, 0) (rule R13). -/
def sentinel : Affine := { x := 0, y := 0 }

/-- The local u1 = x1·z2² of rule R162 (u2 with the operands swapped). -/
def jaddU (p q : Jac) : Nat := mulP p.x (mulP q.z q.z)

/-- The local s1 = y1·z2³ of rule R162 (s2 with the operands swapped). -/
def jaddS (p q : Jac) : Nat := mulP p.y (mulP (mulP q.z q.z) q.z)

/-- The local h = u2 − u1 of rule R162. -/
def jaddH (p q : Jac) : Nat := subP (jaddU q p) (jaddU p q)

/-- The local r = s2 − s1 of rule R162. -/
def jaddR (p q : Jac) : Nat := subP (jaddS q p) (jaddS p q)

/-- jadd (rule R162), the formulas for every input. -/
def jadd (p q : Jac) : Jac :=
  let s1 := jaddS p q
  let u1 := jaddU p q
  let h := jaddH p q
  let r := jaddR p q
  let h2 := mulP h h
  let h3 := mulP h2 h
  let x' := subP (subP (mulP r r) h3) (mulP 2 (mulP u1 h2))
  let y' := subP (mulP r (subP (mulP u1 h2) x')) (mulP s1 h3)
  let z' := mulP h (mulP p.z q.z)
  { x := x', y := y', z := z' }

/-- One evaluation of jadd is degenerate (rule R166). -/
def jaddDegenerate (p q : Jac) : Bool := p.z == 0 || q.z == 0 || jaddH p q == 0

/-- jdbl (rule R164), the formulas for every input. -/
def jdbl (p : Jac) : Jac :=
  let xx := mulP p.x p.x
  let zz := mulP p.z p.z
  let z4 := mulP zz zz
  let yy := mulP p.y p.y
  let y4 := mulP yy yy
  let m := addP (mulP 3 xx) (mulP A z4)
  let s := mulP 4 (mulP p.x yy)
  let t := subP (mulP m m) (mulP 2 s)
  { x := t, y := subP (mulP m (subP s t)) (mulP 8 y4), z := mulP 2 (mulP p.y p.z) }

/-- One evaluation of jdbl is degenerate (rule R166). -/
def jdblDegenerate (p : Jac) : Bool := p.z == 0 || p.y == 0

/-- toAffine (rule R165). Its inverse never raises an error (rule R114). -/
def toAffine (p : Jac) : Affine :=
  if p.z = 0 then sentinel
  else
    let zi := invValue p.z P
    let zi2 := mulP zi zi
    let zi3 := mulP zi2 zi
    { x := mulP p.x zi2, y := mulP p.y zi3 }

end Sys2Proof.Machine
end

