-- ==== Sys2Proof/Machine/Operands.lean ====
section
/-! DEFINITION. Operand and result assembly (rules R92, R94, R160): the naturals the ARG registers hold, the range check of
point operands, the register form of results and table entries, and the words of a 256-bit register (rule R61). -/

namespace Sys2Proof.Machine

open Sys2Proof.Curve

/-- ARG[i] as the natural the register holds: no extension, scaling or reduction (rules R12, R92). -/
def argNat (s : State) (i : Fin 6) : Nat := s.args[i].toNat

/-- The point in ARG0, ARG1, ARG2: JADD's P1, JDBL's and TOAFFINE's operand (rule R94). -/
def argPoint1 (s : State) : Jac := { x := argNat s 0, y := argNat s 1, z := argNat s 2 }

/-- The point in ARG3, ARG4, ARG5: JADD's P2 (rule R94). -/
def argPoint2 (s : State) : Jac := { x := argNat s 3, y := argNat s 4, z := argNat s 5 }

/-- Every coordinate is below P (rule R160). -/
def inRange (p : Jac) : Bool := decide (p.x < P) && decide (p.y < P) && decide (p.z < P)

/-- A natural result as a RES register holds it; every result the block computes is below 2^256 (rule R110). -/
def resOf (n : Nat) : U256 := BitVec.ofNat 256 n

/-- A boolean result: 1 or 0 (rule R94). -/
def boolRes (b : Bool) : U256 := if b then 1 else 0

/-- A datapath triple as a table entry holds it (rule R33). -/
def toEntry (p : Jac) : Entry := { x := resOf p.x, y := resOf p.y, z := resOf p.z }

/-- A table entry as a datapath triple. -/
def ofEntry (e : Entry) : Jac := { x := e.x.toNat, y := e.y.toNat, z := e.z.toNat }

/-- A built table as the table store holds it (rule R33). -/
def storeTable (t : Vector Jac 16) : Vector Entry 16 :=
  #v[toEntry t[0], toEntry t[1], toEntry t[2], toEntry t[3], toEntry t[4], toEntry t[5], toEntry t[6], toEntry t[7],
     toEntry t[8], toEntry t[9], toEntry t[10], toEntry t[11], toEntry t[12], toEntry t[13], toEntry t[14], toEntry t[15]]

/-- The table store as SHAMIR reads it (rules R33, R190). -/
def loadTable (t : Vector Entry 16) : Vector Jac 16 :=
  #v[ofEntry t[0], ofEntry t[1], ofEntry t[2], ofEntry t[3], ofEntry t[4], ofEntry t[5], ofEntry t[6], ofEntry t[7],
     ofEntry t[8], ofEntry t[9], ofEntry t[10], ofEntry t[11], ofEntry t[12], ofEntry t[13], ofEntry t[14], ofEntry t[15]]

/-- Word k of a 256-bit register: bits [255 - 32k : 224 - 32k] (rule R61). -/
def wordOf (v : U256) (k : Fin 8) : Word := v.extractLsb' (224 - 32 * k.val) 32

/-- A 256-bit register with word k replaced and the other seven words unchanged (rules R61, R63). -/
def setWordOf (v : U256) (k : Fin 8) (w : Word) : U256 :=
  let sh := 224 - 32 * k.val
  (v &&& ~~~((0xFFFFFFFF : U256) <<< sh)) ||| (w.setWidth 256 <<< sh)

/-- Coordinate c (0 = X, 1 = Y, 2 = Z) of a table entry (rule R36). -/
def entryCoord (e : Entry) (c : Fin 3) : U256 :=
  match c with
  | 0 => e.x
  | 1 => e.y
  | 2 => e.z

/-- The constant ROM's values in offset order (rule R31). -/
def romValue (n : Fin 7) : U256 :=
  match n with
  | 0 => resOf P
  | 1 => resOf N
  | 2 => resOf A
  | 3 => resOf B
  | 4 => resOf GX
  | 5 => resOf GY
  | 6 => resOf halfN

end Sys2Proof.Machine
end

