-- ==== Sys2Proof/Machine/Ops.lean ====
section
/-! DEFINITION. The block's shared operations: acceptance (rule R95), the completion step (rule R280), the error completion
(rule R246), reset (rules R270, R271), the register window (rules R24, R60 to R64) and the accelerator port (rules R43, R220). -/

namespace Sys2Proof.Machine

/-- What an accepted CMD word decodes to (rule R91). -/
def opOfWord (w : Word) : Op :=
  match decode w with
  | .ok i => .command i
  | .error _ => .illegal

/-- Acceptance of a CMD word (rule R95), one atomic event. -/
def accept (w : Word) (s : State) : State :=
  { s with cmd := w, status := statusAccepted s.status, seq := .run (opOfWord w) s.ctrl.accelEn }

/-- The completion step (rule R280), one atomic event: all three RES registers, the table where the command writes it, the
flags, DONE_IRQ and the sequencer. ARG, CMD, CTRL and BUSY_WRITE are unchanged. -/
def complete (r : Results) (s : State) : State :=
  { s with
    res := #v[r.res0, r.res1, r.res2]
    table := r.table.getD s.table
    status := statusCompleted r s.status
    doneIrq := true
    seq := .idle }

/-- `raise Error(code)` (rule R246), the block's only equivalent of taking an exception (rule R247): the completion step
with zero results, no table and the code in STATUS.ERR. Nothing returns from it (rule R248). -/
def raiseError (code : ErrCode) (s : State) : State := complete { err := code } s

/-- The completion of an ILLEGAL word (rules R91, R242). -/
def completeIllegal (s : State) : State := raiseError .illegalCmd s

/-- Reset of the block (rules R46, R270): every state takes its reset value and a running command is abandoned. The host,
the schedule and the draw counter are no state of the block and stay. -/
def resetBlock (s : State) : State := { State.reset with host := s.host, turns := s.turns, draws := s.draws }

/-! The register window. -/

/-- The 4 KiB window's size (rules R8, R60). -/
def windowSize : Nat := 4096

/-- The platform address at which the host's bus shows window offset `off` (rules R60, R69). -/
def busAddress (off : Nat) : Nat := Config.baseAddr + off

/-- The window offset of a platform address that lies in the window (rules R60, R69). -/
def offsetOfAddress (a : Nat) : Option Nat :=
  if Config.baseAddr ≤ a ∧ a < Config.baseAddr + windowSize then some (a - Config.baseAddr) else none

/-- An access the bus port admits: 32 bits at a multiple of 4 inside the window (rule R62). -/
def accessOk (size off : Nat) : Bool := size == 4 && off % 4 == 0 && decide (off < windowSize)

/-- What a word of the window belongs to (rule R24's map). -/
inductive Loc where
  | id
  | caps
  | ctrl
  | cmd
  | status
  | irqStatus
  /-- Word k of ARGi. -/
  | arg (i : Fin 6) (k : Fin 8)
  /-- Word k of RESj. -/
  | res (j : Fin 3) (k : Fin 8)
  /-- Word k of the ROM's n-th value. -/
  | rom (n : Fin 7) (k : Fin 8)
  /-- Word k of coordinate c of TABLE[e]. -/
  | table (e : Fin 16) (c : Fin 3) (k : Fin 8)
  | reserved
  deriving DecidableEq, Repr

/-- The register map (rules R24, R36, R61): the word at a window offset. -/
def locate (off : Nat) : Loc :=
  if off = 0x000 then .id
  else if off = 0x004 then .caps
  else if off = 0x008 then .ctrl
  else if off = 0x00C then .cmd
  else if off = 0x010 then .status
  else if off = 0x014 then .irqStatus
  else if h : 0x100 ≤ off ∧ off < 0x1C0 then
    .arg ⟨(off - 0x100) / 0x20, by omega⟩ ⟨(off - 0x100) % 0x20 / 4, by omega⟩
  else if h : 0x200 ≤ off ∧ off < 0x260 then
    .res ⟨(off - 0x200) / 0x20, by omega⟩ ⟨(off - 0x200) % 0x20 / 4, by omega⟩
  else if h : 0x300 ≤ off ∧ off < 0x3E0 then
    .rom ⟨(off - 0x300) / 0x20, by omega⟩ ⟨(off - 0x300) % 0x20 / 4, by omega⟩
  else if h : 0x400 ≤ off ∧ off < 0xA00 then
    .table ⟨(off - 0x400) / 0x60, by omega⟩ ⟨(off - 0x400) % 0x60 / 0x20, by omega⟩ ⟨(off - 0x400) % 0x20 / 4, by omega⟩
  else .reserved

/-- ID's hardwired value (rule R25). -/
def idWord : Word := 0x50323536

/-- CAPS's hardwired value (rule R26). -/
def capsWord : Word := BitVec.ofNat 32 Config.accelPresent.toNat

/-- The word a read of the window returns (rule R64): RES and TABLE words read 0 while BUSY = 1 (rule R44), reserved words
read 0 (rule R24). -/
def readLoc (s : State) : Loc → Word
  | .id => idWord
  | .caps => capsWord
  | .ctrl => ctrlWord s.ctrl
  | .cmd => s.cmd
  | .status => statusWord s.status
  | .irqStatus => irqStatusWord s.doneIrq
  | .arg i k => wordOf s.args[i] k
  | .res j k => if s.status.busy then 0 else wordOf s.res[j] k
  | .rom n k => wordOf (romValue n) k
  | .table e c k => if s.status.busy then 0 else wordOf (entryCoord s.table[e] c) k
  | .reserved => 0

/-- A write of CTRL (rule R27): SOFT_RESET = 1 resets the block and the other bits are ignored (rule R271). -/
def writeCtrl (v : Word) (s : State) : State :=
  if v.getLsbD 0 then resetBlock s else { s with ctrl := ctrlOfWord v }

/-- A write of CMD (rules R28, R63). -/
def writeCmd (v : Word) (s : State) : State :=
  if s.status.busy then { s with status := statusBusyWrite s.status } else accept v s

/-- A write of IRQ_STATUS (rules R30, R63): writing 1 clears DONE_IRQ. -/
def writeIrqStatus (v : Word) (s : State) : State := if v.getLsbD 0 then { s with doneIrq := false } else s

/-- A write of word k of ARGi (rules R21, R63). -/
def writeArg (i : Fin 6) (k : Fin 8) (v : Word) (s : State) : State :=
  if s.status.busy then { s with status := statusBusyWrite s.status }
  else { s with args := s.args.set i (setWordOf s.args[i] k v) }

/-- The effect of a write to the window (rule R63): every location without a row of its own ignores it. -/
def writeLoc (v : Word) (s : State) : Loc → State
  | .ctrl => writeCtrl v s
  | .cmd => writeCmd v s
  | .irqStatus => writeIrqStatus v s
  | .arg i k => writeArg i k v s
  | .id => s
  | .caps => s
  | .status => s
  | .res _ _ => s
  | .rom _ _ => s
  | .table _ _ _ => s
  | .reserved => s

/-- MemRead (rules R60, R62, R64): the word read, or the bus error. A read changes no state. -/
def memRead (size off : Nat) (s : State) : Except Fault Word :=
  if accessOk size off then .ok (readLoc s (locate off)) else .error .busError

/-- MemWrite (rules R60, R62, R63): the state after the write, or the bus error. -/
def memWrite (size off : Nat) (v : Word) (s : State) : Except Fault State :=
  if accessOk size off then .ok (writeLoc v s (locate off)) else .error .busError

/-! The accelerator port. -/

/-- The response a 2-bit code stands for (rule R220). -/
def responseOfCode (code : BitVec 2) : AccelResponse :=
  if code = 0b00 then .unsupported
  else if code = 0b01 then .valid false
  else if code = 0b10 then .valid true
  else .reserved

/-- The payload of a request: h, r, s, qx, qy from ARG0 to ARG4 (rules R94, R220). -/
def requestPayload (s : State) : Payload :=
  { h := s.args[0], r := s.args[1], s := s.args[2], qx := s.args[3], qy := s.args[4] }

/-- `accelerate`'s request (rules R43, R220): the sequencer enters WAIT_ACCEL and sets accel_pending. -/
def sendRequest (op : Instr) (s : State) : State :=
  { s with seq := .waitAccel op (requestPayload s) none, accelPending := true }

/-- The request the port presents, while one is outstanding (rules R43, R220). -/
def presentedRequest (s : State) : Option Payload :=
  match s.seq with
  | .waitAccel _ p none => if s.accelPending then some p else none
  | _ => none

/-- A 256-bit operand as 32 bytes, most significant first (rule R67). -/
def bytesBE (v : U256) : List Byte := (List.range 32).map fun i => v.extractLsb' (248 - 8 * i) 8

/-- The 160 bytes of a request: h, r, s, qx, qy, each big-endian (rules R67, R220). -/
def payloadBytes (p : Payload) : List Byte :=
  bytesBE p.h ++ bytesBE p.r ++ bytesBE p.s ++ bytesBE p.qx ++ bytesBE p.qy

/-- The waiting sequencer with the response latched; a sequencer that waits for none is left as it is. -/
def latchAnswer (a : AccelResponse) : Seq → Seq
  | .waitAccel op p none => .waitAccel op p (some a)
  | q => q

/-- The accelerator's response event (rules R43, R70, R220): it clears accel_pending, and the completion follows as an event
of its own; with accel_pending = 0 it is ignored. -/
def takeResponse (code : BitVec 2) (s : State) : State :=
  if s.accelPending then
    { s with accelPending := false, seq := latchAnswer (responseOfCode code) s.seq, draws := s.draws + 1 }
  else s

end Sys2Proof.Machine
end

