-- ==== Sys2Proof/Machine/Agents.lean ====
section
/-! DEFINITION. The agents other than the sequencer, and the order of events: the host's program (rules R5, R98, R99), whose
turn comes next (rule R70), the hardware reset event (rule R270) and what the sequencer's turn runs (rules R40, R41). -/

namespace Sys2Proof.Machine

/-! The host's local variables. -/

/-- The value of a host-local variable; one never assigned holds 0. -/
def varGet : List (Nat × Nat) → Nat → Nat
  | [], _ => 0
  | (y, w) :: rest, x => if y = x then w else varGet rest x

/-- Assignment to a host-local variable, keeping the canonical form. -/
def varSet : List (Nat × Nat) → Nat → Nat → List (Nat × Nat)
  | [], x, v => if v = 0 then [] else [(x, v)]
  | (y, w) :: rest, x, v =>
    if x < y then (if v = 0 then (y, w) :: rest else (x, v) :: (y, w) :: rest)
    else if x = y then (if v = 0 then rest else (x, v) :: rest)
    else (y, w) :: varSet rest x v

/-- The value of a host-local expression, in exact natural arithmetic (rule R9). -/
def evalExpr (vars : List (Nat × Nat)) : HostExpr → Nat
  | .lit n => n
  | .var x => varGet vars x
  | .add a b => evalExpr vars a + evalExpr vars b
  | .mul a b => evalExpr vars a * evalExpr vars b
  | .land a b => evalExpr vars a &&& evalExpr vars b
  | .lor a b => evalExpr vars a ||| evalExpr vars b
  | .ne a b => if evalExpr vars a = evalExpr vars b then 0 else 1
  | .word a k => evalExpr vars a / 2 ^ (224 - 32 * k) % 2 ^ 32

/-- The index of a label's first line. -/
def labelPos (name : Nat) : List HostLine → Option Nat
  | [] => none
  | l :: rest => if l = .label name then some 0 else (labelPos name rest).map (· + 1)

/-- The host goes on with its next line. -/
def hostAdvance (s : State) : State := { s with host := { s.host with pos := s.host.pos + 1 } }

/-- The host goes to a label; a label the program does not hold ends it. -/
def hostJump (name : Nat) (s : State) : State :=
  { s with host := { s.host with pos := (labelPos name s.host.program).getD s.host.program.length } }

/-- The host assigns a local variable and goes on. -/
def hostAssign (x v : Nat) (s : State) : State :=
  hostAdvance { s with host := { s.host with vars := varSet s.host.vars x v } }

/-- One line of the host's program (rules R98, R241). -/
def hostLine (l : HostLine) (s : State) : Host.Outcome State Fault Refusal :=
  match l with
  | .write size off e =>
    match memWrite size off (BitVec.ofNat 32 (evalExpr s.host.vars e)) s with
    | .ok t => .next (hostAdvance t)
    | .error f => .fault f
  | .read size x off =>
    match memRead size off s with
    | .ok w => .next (hostAssign x w.toNat s)
    | .error f => .fault f
  | .bnz x mask label => .next (if varGet s.host.vars x &&& mask ≠ 0 then hostJump label s else hostAdvance s)
  | .bz x mask label => .next (if varGet s.host.vars x &&& mask = 0 then hostJump label s else hostAdvance s)
  | .label _ => .next (hostAdvance s)
  | .assign x e => .next (hostAssign x (evalExpr s.host.vars e) s)
  | .waitIrq => .next (if irqOut s then hostAdvance s else s)

/-- The host's turn: its next line, or nothing once it has performed its last one (rule R288). -/
def hostTurn (s : State) : Host.Outcome State Fault Refusal :=
  match s.host.program[s.host.pos]? with
  | some l => hostLine l s
  | none => .next s

/-! The pseudo-operations of rule R99, as the lines they expand to. -/

/-- `wr256 ARGi, V`. -/
def wr256 (i : Nat) (v : HostExpr) : List HostLine :=
  (List.range 8).map fun k => .write 4 (0x100 + 0x20 * i + 4 * k) (.word v k)

/-- `rd256 reg, OFF`, with the eight words in the variables `tmp`, ..., `tmp + 7`. -/
def rd256 (reg off tmp : Nat) : List HostLine :=
  ((List.range 8).map fun k => HostLine.read 4 (tmp + k) (off + 4 * k)) ++
    [.assign reg
      ((List.range 8).foldl (fun e k => .add e (.mul (.var (tmp + k)) (.lit (2 ^ (32 * (7 - k)))))) (.lit 0))]

/-- `cmd MNEMONIC`. -/
def cmdLines (i : Instr) : List HostLine := [.write 4 0x00C (.lit (encode i).toNat)]

/-- `wait`: poll STATUS.DONE, with a label and a variable of the caller's choice. -/
def waitLines (label t : Nat) : List HostLine := [.label label, .read 4 t 0x010, .bz t 0x2 label]

/-- `ack`: clear DONE_IRQ. -/
def ackLines : List HostLine := [.write 4 0x014 (.lit 1)]

/-- `reset`: the soft reset. -/
def resetLines : List HostLine := [.write 4 0x008 (.lit 1)]

/-! The order of events. -/

/-- The turn taken when the schedule is empty, by rule R290's fairness: an accelerator with a request pending answers
with its draw, a sequencer that runs a command steps, and otherwise the host goes on. -/
def defaultTurn (s : State) : Turn :=
  match s.seq with
  | .idle => .host
  | .run _ _ => .sequencer
  | .waitAccel _ _ none => .accelerator (Config.accelDraw s.draws)
  | .waitAccel _ _ (some _) => .sequencer

/-- The event that comes next in the total order (rule R70). -/
def nextTurn (s : State) : Turn :=
  match s.turns with
  | t :: _ => t
  | [] => defaultTurn s

/-- The schedule with its next event taken. -/
def popTurn (s : State) : State := { s with turns := s.turns.tail }

/-- A hardware reset (rule R270): one event, with the effect of `resetBlock`. -/
def hardReset (s : State) : State := resetBlock s

/-- What the sequencer's turn runs (rules R40, R41): nothing in IDLE, else the accepted command. -/
def runningOp (s : State) : Option Op :=
  match s.seq with
  | .idle => none
  | .run op _ => some op
  | .waitAccel op _ _ => some (.command op)

/-- The state with command word `w` accepted (rule R95) and the sequencer's turn next. -/
def placeCommand (w : Word) (s : State) : State :=
  let t := accept w s
  match t.turns with
  | [] => t
  | _ :: _ => { t with turns := .sequencer :: t.turns }

end Sys2Proof.Machine
end

