-- ==== Sys2Proof/Machine/Arith.lean ====
section
/-! DEFINITION. The commands of the inverse and exponentiation engines: INV and MODEXP (rules R120, R125). -/

namespace Sys2Proof.Machine

/-- The completion of a one-value arithmetic command: RES0 the value, or the error (rules R120, R125). -/
def completeValue (v : Except ErrCode Nat) (s : State) : State :=
  match v with
  | .ok x => complete { res0 := resOf x } s
  | .error e => raiseError e s

/-- INV (rule R120). -/
def execInv (s : State) : Host.Outcome State Fault Refusal :=
  .next (completeValue (inv (argNat s 0) (argNat s 1)) s)

/-- MODEXP (rule R125). -/
def execModexp (s : State) : Host.Outcome State Fault Refusal :=
  .next (completeValue (modpow (argNat s 0) (argNat s 1) (argNat s 2)) s)

end Sys2Proof.Machine
end

