-- ==== Sys2Proof/Machine/PointCommands.lean ====
section
/-! DEFINITION. The point commands: JADD, JDBL and TOAFFINE (rules R160, R161, R163, R165). -/

namespace Sys2Proof.Machine

/-- The completion of a command whose result is a Jacobian triple (rules R161, R163). -/
def completePoint (p : Jac) (degen : Bool) (s : State) : State :=
  complete { res0 := resOf p.x, res1 := resOf p.y, res2 := resOf p.z, degen := degen } s

/-- JADD (rule R161): RANGE before any evaluation (rule R160). -/
def execJadd (s : State) : Host.Outcome State Fault Refusal :=
  .next
    (if inRange (argPoint1 s) && inRange (argPoint2 s) then
      completePoint (jadd (argPoint1 s) (argPoint2 s)) (jaddDegenerate (argPoint1 s) (argPoint2 s)) s
    else raiseError .range s)

/-- JDBL (rule R163): RANGE before any evaluation (rule R160). -/
def execJdbl (s : State) : Host.Outcome State Fault Refusal :=
  .next
    (if inRange (argPoint1 s) then completePoint (jdbl (argPoint1 s)) (jdblDegenerate (argPoint1 s)) s
    else raiseError .range s)

/-- TOAFFINE (rule R165): RANGE before any evaluation (rule R160). -/
def execToaffine (s : State) : Host.Outcome State Fault Refusal :=
  .next
    (if inRange (argPoint1 s) then
      complete { res0 := resOf (toAffine (argPoint1 s)).x, res1 := resOf (toAffine (argPoint1 s)).y } s
    else raiseError .range s)

end Sys2Proof.Machine
end

