-- ==== Sys2Proof/Machine/Multiplier.lean ====
section
/-! DEFINITION. The precomputed table and the Shamir multiplier: build and multiply (rules R180, R181, R190). -/

namespace Sys2Proof.Machine

open Sys2Proof.Curve

/-- The base entry T[1] of build: Pt (rule R181). -/
def tablePt (px py : Nat) : Jac := { x := px, y := py, z := 1 }

/-- The base entry T[4] of build: G (rule R181). -/
def tableG : Jac := { x := GX, y := GY, z := 1 }

/-- The column entries T[1], T[2], T[3] of build: Pt, 2Pt, 3Pt (rule R181). -/
def tableCol (px py : Nat) (col : Fin 3) : Jac :=
  let t1 := tablePt px py
  let t2 := jdbl t1
  match col with
  | 0 => t1
  | 1 => t2
  | 2 => jadd t1 t2

/-- The row entries T[4], T[8], T[12] of build: G, 2G, 3G, the same for every Pt (rule R181). -/
def tableRow (row : Fin 3) : Jac :=
  let t8 := jdbl tableG
  match row with
  | 0 => tableG
  | 1 => t8
  | 2 => jadd tableG t8

/-- build (rule R181): the 16 entries, the row entry the first operand of every addition. -/
def build (px py : Nat) : Vector Jac 16 :=
  let c1 := tableCol px py 0
  let c2 := tableCol px py 1
  let c3 := tableCol px py 2
  let r1 := tableRow 0
  let r2 := tableRow 1
  let r3 := tableRow 2
  #v[jacIdentity, c1, c2, c3,
     r1, jadd r1 c1, jadd r1 c2, jadd r1 c3,
     r2, jadd r2 c1, jadd r2 c2, jadd r2 c3,
     r3, jadd r3 c1, jadd r3 c2, jadd r3 c3]

/-- Some evaluation of build is degenerate (rules R166, R183). -/
def buildDegenerate (px py : Nat) : Bool :=
  let c1 := tableCol px py 0
  let c2 := tableCol px py 1
  let c3 := tableCol px py 2
  let r1 := tableRow 0
  let r2 := tableRow 1
  let r3 := tableRow 2
  jdblDegenerate c1 || jaddDegenerate c1 c2 || jdblDegenerate r1 || jaddDegenerate r1 r2 ||
    [r1, r2, r3].any fun r => jaddDegenerate r c1 || jaddDegenerate r c2 || jaddDegenerate r c3

/-- top2(u) = u[255:254] (rule R10). -/
def top2 (u : Nat) : Nat := u / 2 ^ 254 % 4

/-- shl2(u) = (u · 4) mod 2^256 (rule R10). -/
def shl2 (u : Nat) : Nat := u * 4 % 2 ^ 256

/-- A round's table index {top2(u1), top2(u2)}: the row from u1, the column from u2 (rules R180, R190). -/
def tablePos (u1 u2 : Nat) : Fin 16 := ⟨4 * top2 u1 + top2 u2, by unfold top2; omega⟩

/-- What the multiplier's loop carries (rules R42, R190): the shifted scalars, the accumulator, the degenerate flag. -/
structure MulState where
  u1 : Nat
  u2 : Nat
  acc : Jac
  degen : Bool
  deriving DecidableEq, Repr

/-- The round's doublings: an accumulator that is not identity-marked is doubled twice (rules R190, R193). -/
def mulDouble (m : MulState) : MulState :=
  if m.acc.z = 0 then m
  else
    let a := jdbl m.acc
    { m with acc := jdbl a, degen := m.degen || jdblDegenerate m.acc || jdblDegenerate a }

/-- The round's table step: nothing for entry 0, a copy into an identity-marked accumulator, else an addition with the
accumulator first (rules R190, R193). -/
def mulAdd (t : Vector Jac 16) (m : MulState) : MulState :=
  let pos := tablePos m.u1 m.u2
  if pos = 0 then m
  else if m.acc.z = 0 then { m with acc := t[pos] }
  else { m with acc := jadd m.acc t[pos], degen := m.degen || jaddDegenerate m.acc t[pos] }

/-- The round's shift of both scalars (rule R190). -/
def mulShift (m : MulState) : MulState := { m with u1 := shl2 m.u1, u2 := shl2 m.u2 }

/-- One round of the multiplier (rule R190). -/
def mulRound (t : Vector Jac 16) (m : MulState) : MulState := mulShift (mulAdd t (mulDouble m))

/-- `n` rounds of the multiplier. -/
def mulRounds (t : Vector Jac 16) : Nat → MulState → MulState
  | 0, m => m
  | n + 1, m => mulRounds t n (mulRound t m)

/-- The loop's start (rule R190): the identity accumulator and the whole scalars. -/
def mulStart (u1 u2 : Nat) : MulState := { u1 := u1, u2 := u2, acc := jacIdentity, degen := false }

/-- The loop's end: exactly 128 rounds, no early exit (rules R190, R196). -/
def mulLoop (t : Vector Jac 16) (u1 u2 : Nat) : MulState := mulRounds t 128 (mulStart u1 u2)

/-- multiply (rule R190): u1 multiplies G and u2 multiplies Pt (rule R191). -/
def multiply (t : Vector Jac 16) (u1 u2 : Nat) : Affine := toAffine (mulLoop t u1 u2).acc

/-- Some evaluation of multiply is degenerate (rule R166). -/
def multiplyDegenerate (t : Vector Jac 16) (u1 u2 : Nat) : Bool := (mulLoop t u1 u2).degen

end Sys2Proof.Machine
end

