-- ==== Sys2Proof/Machine/TableCommands.lean ====
section
/-! DEFINITION. The table and multiplier commands: BUILD_TABLE and SHAMIR (rules R182, R190). -/

namespace Sys2Proof.Machine

open Sys2Proof.Curve

/-- BUILD_TABLE (rule R182). Curve membership is not checked. -/
def execBuildTable (s : State) : Host.Outcome State Fault Refusal :=
  .next
    (if argNat s 0 ≥ P ∨ argNat s 1 ≥ P then raiseError .range s
    else
      complete
        { table := some (storeTable (build (argNat s 0) (argNat s 1)))
          degen := buildDegenerate (argNat s 0) (argNat s 1) } s)

/-- SHAMIR (rule R190): NO_TABLE before the loop. It is the only command that reads the table store or a flag
(rules R33, R45). -/
def execShamir (s : State) : Host.Outcome State Fault Refusal :=
  .next
    (if s.status.tableValid then
      let t := loadTable s.table
      let p := multiply t (argNat s 0) (argNat s 1)
      complete
        { res0 := resOf p.x, res1 := resOf p.y, degen := multiplyDegenerate t (argNat s 0) (argNat s 1) } s
    else raiseError .noTable s)

end Sys2Proof.Machine
end

