-- ==== Sys2Proof/Machine/Signature.lean ====
section
/-! DEFINITION. Validation, software verification and recovery (rules R140, R145, R210, R230). -/

namespace Sys2Proof.Machine

open Sys2Proof.Curve

/-- x³ + A·x + B mod P, the right side of the curve equation (rules R140, R230). -/
def curveRhs (x : Nat) : Nat := addP (addP (mulP (sqrP x) x) (mulP A x)) B

/-- validKey (rule R140): the range check is independent of the equation. -/
def validKey (x y : Nat) : Bool :=
  if x ≥ P ∨ y ≥ P then false else sqrP y == curveRhs x

/-- properSig (rule R145). -/
def properSig (r s : Nat) : Bool :=
  decide (0 < r) && decide (r < N) && decide (0 < s) && decide (s ≤ halfN)

/-- What the software path of VERIFY returns (rule R210): the verdict, the table it built and the degenerate mark. -/
structure Verdict where
  valid : Bool
  table : Vector Jac 16
  degen : Bool
  deriving DecidableEq, Repr

/-- verifySW (rule R210). h is not reduced before mulN. -/
def verifySW (h r s qx qy : Nat) : Verdict :=
  let t := build qx qy
  let w := invValue s N
  let u1 := mulN h w
  let u2 := mulN r w
  { valid := (multiply t u1 u2).x % N == r
    table := t
    degen := buildDegenerate qx qy || multiplyDegenerate t u1 u2 }

/-- The candidate root of step 3 of RECOVER (rule R230): ry2 to the power (P + 1)/4. -/
def recoverRoot (r : Nat) : Nat := modPow (curveRhs r) ((P + 1) / 4) P

/-- Step 5 of RECOVER (rule R230): the root with the parity of v. -/
def recoverY (v ry : Nat) : Nat := if ry % 2 ≠ v % 2 then P - ry else ry

/-- What RECOVER's steps 6 and 7 produce (rule R230): the point, the table they built and the degenerate mark. -/
structure Recovery where
  point : Affine
  table : Vector Jac 16
  degen : Bool
  deriving DecidableEq, Repr

/-- Steps 1 to 7 of RECOVER (rule R230); none where steps 1 or 4 end with the sentinel and no table is built. -/
def recoverKey (h v r s : Nat) : Option Recovery :=
  if !properSig r s || decide (v > 1) then none
  else
    let ry := recoverRoot r
    if sqrP ry ≠ curveRhs r then none
    else
      let y := recoverY v ry
      let t := build r y
      let w := invValue r N
      let u1 := mulN (N - h % N) w
      let u2 := mulN s w
      some
        { point := multiply t u1 u2
          table := t
          degen := buildDegenerate r y || multiplyDegenerate t u1 u2 }

end Sys2Proof.Machine
end

