-- ==== Sys2Proof/Machine/Validate.lean ====
section
/-! DEFINITION. The validating commands: VALIDATE_KEY and CHECK_SIG (rules R140, R145). Neither raises an error. -/

namespace Sys2Proof.Machine

/-- VALIDATE_KEY (rule R140). -/
def execValidateKey (s : State) : Host.Outcome State Fault Refusal :=
  .next (complete { res0 := boolRes (validKey (argNat s 0) (argNat s 1)) } s)

/-- CHECK_SIG (rule R145). -/
def execCheckSig (s : State) : Host.Outcome State Fault Refusal :=
  .next (complete { res0 := boolRes (properSig (argNat s 0) (argNat s 1)) } s)

end Sys2Proof.Machine
end

