-- ==== Sys2Proof/Machine/VerifyCommands.lean ====
section
/-! DEFINITION. The verifier's and the recoverer's commands: VERIFY, VERIFY_STRICT and RECOVER (rules R211, R215, R230). A
command that has sent a request runs in two turns of the sequencer: the request, and the completion after the response. -/

namespace Sys2Proof.Machine

/-- Step 1 of VERIFY and VERIFY_STRICT (rules R211, R215): properSig of (ARG1, ARG2) and validKey of (ARG3, ARG4). -/
def wellFormedInput (s : State) : Bool :=
  properSig (argNat s 1) (argNat s 2) && validKey (argNat s 3) (argNat s 4)

/-- CTRL.ACCEL_EN as sampled at the running command's acceptance (rules R27, R40). -/
def sampledAccelEn (s : State) : Bool :=
  match s.seq with
  | .run _ accelEn => accelEn
  | .idle => s.ctrl.accelEn
  | .waitAccel _ _ _ => s.ctrl.accelEn

/-- The completion of VERIFY's software path (rules R210, R211): the verdict, the table written, TABLE_VALID set. -/
def verifySoftware (s : State) : State :=
  let v := verifySW (argNat s 0) (argNat s 1) (argNat s 2) (argNat s 3) (argNat s 4)
  complete { res0 := boolRes v.valid, table := some (storeTable v.table), degen := v.degen } s

/-- The completion on an authoritative response VALID(b): no table write (rules R211, R215). -/
def completeAccel (b : Bool) (s : State) : State := complete { res0 := boolRes b, accelUsed := true } s

/-- VERIFY once its request has been answered (rules R211, R221): the software path only on UNSUPPORTED. -/
def verifyAnswered (a : AccelResponse) (s : State) : State :=
  match a with
  | .valid b => completeAccel b s
  | .reserved => raiseError .accelFault s
  | .unsupported => verifySoftware s

/-- VERIFY from acceptance (rule R211), for an accelerator that is `present` or not: validation first, then the request when
ACCEL_EN was sampled 1 and an accelerator is present, else the software path. -/
def verifyLaunched (present : Bool) (s : State) : State :=
  if !wellFormedInput s then complete {} s
  else if sampledAccelEn s && present then sendRequest .verify s
  else verifySoftware s

/-- VERIFY (rule R211). While its request has no answer the sequencer waits (rule R40). -/
def execVerify (s : State) : Host.Outcome State Fault Refusal :=
  match s.seq with
  | .waitAccel _ _ none => .next s
  | .waitAccel _ _ (some a) => .next (verifyAnswered a s)
  | .run _ _ => .next (verifyLaunched Config.accelPresent s)
  | .idle => .next (verifyLaunched Config.accelPresent s)

/-- VERIFY_STRICT once its request has been answered (rule R215): never the software path. -/
def strictAnswered (a : AccelResponse) (s : State) : State :=
  match a with
  | .valid b => completeAccel b s
  | .unsupported => raiseError .accelUnavailable s
  | .reserved => raiseError .accelFault s

/-- VERIFY_STRICT from acceptance (rule R215), for an accelerator that is `present` or not: validation before the
availability check, and ACCEL_EN is not read. -/
def strictLaunched (present : Bool) (s : State) : State :=
  if !wellFormedInput s then complete {} s
  else if present then sendRequest .verifyStrict s
  else raiseError .accelUnavailable s

/-- VERIFY_STRICT (rule R215). While its request has no answer the sequencer waits (rule R40). -/
def execVerifyStrict (s : State) : Host.Outcome State Fault Refusal :=
  match s.seq with
  | .waitAccel _ _ none => .next s
  | .waitAccel _ _ (some a) => .next (strictAnswered a s)
  | .run _ _ => .next (strictLaunched Config.accelPresent s)
  | .idle => .next (strictLaunched Config.accelPresent s)

/-- RECOVER (rule R230): the sentinel without a table, or the recovered point with the table written. It raises no error. -/
def execRecover (s : State) : Host.Outcome State Fault Refusal :=
  .next
    (match recoverKey (argNat s 0) (argNat s 1) (argNat s 2) (argNat s 3) with
    | none => complete {} s
    | some k =>
      complete
        { res0 := resOf k.point.x, res1 := resOf k.point.y, table := some (storeTable k.table), degen := k.degen } s)

end Sys2Proof.Machine
end

