-- ==== Sys2Proof/Machine/Dispatch.lean ====
section
/-! DEFINITION. One arm per command: what the sequencer's turn does while that command runs. -/

namespace Sys2Proof.Machine

/-- The sequencer's step on the command it runs (rules R41, R42, R280). -/
def exec (i : Instr) (s : State) : Host.Outcome State Fault Refusal :=
  match i with
  | .inv => Sys2Proof.Machine.execInv s
  | .modexp => Sys2Proof.Machine.execModexp s
  | .validateKey => Sys2Proof.Machine.execValidateKey s
  | .checkSig => Sys2Proof.Machine.execCheckSig s
  | .jadd => Sys2Proof.Machine.execJadd s
  | .jdbl => Sys2Proof.Machine.execJdbl s
  | .toaffine => Sys2Proof.Machine.execToaffine s
  | .buildTable => Sys2Proof.Machine.execBuildTable s
  | .shamir => Sys2Proof.Machine.execShamir s
  | .verify => Sys2Proof.Machine.execVerify s
  | .verifyStrict => Sys2Proof.Machine.execVerifyStrict s
  | .recover => Sys2Proof.Machine.execRecover s

end Sys2Proof.Machine
end

