-- ==== Sys2Proof/Machine/Step.lean ====
section
/-! DEFINITION. One step: the next atomic event of rule R70's total order. -/

namespace Sys2Proof.Machine

/-- The sequencer's turn (rules R40, R242, R280): nothing in IDLE, the completion of an ILLEGAL word, or the running
command's step. -/
def sequencerTurn (s : State) : Host.Outcome State Fault Refusal :=
  match runningOp s with
  | none => .next s
  | some .illegal => .next (completeIllegal s)
  | some (.command i) => exec i s

/-- One step: the next event of the schedule, taken by its agent (rules R5, R70). -/
def step (s : State) : Host.Outcome State Fault Refusal :=
  match nextTurn s with
  | .host => hostTurn (popTurn s)
  | .sequencer => sequencerTurn (popTurn s)
  | .accelerator code => .next (takeResponse code (popTurn s))
  | .hardReset => .next (hardReset (popTurn s))

/-- `s` with the command word of a table row accepted, so that the very next step runs it. The block fetches nothing
(rules R41, R68): a command comes to run by the host's CMD write, whose acceptance (rule R95) this stands for. -/
def State.withFetchWord (s : State) (nbits w : Nat) : State := placeCommand (tableWord nbits w) s

end Sys2Proof.Machine
end

