-- ==== Sys2Proof/WellFormed.lean ====
section
/-! DEFINITION. Well-formed commands, command words and host programs (rules R90, R91, R96, R98, R241). -/

namespace Sys2Proof

/-- A command is well formed: it has no operand fields (rules R90, R92), so every one is. -/
def Instr.wf : Instr → Bool
  | .inv | .modexp | .validateKey | .checkSig | .jadd | .jdbl | .toaffine | .buildTable | .shamir | .verify
  | .verifyStrict | .recover => true

/-- A command word a program may write (rule R96): RSV is 0 and OPC is 0x1 to 0xC. -/
def cmdWordWf (w : Word) : Bool := w.toNat / 16 == 0 && decide (1 ≤ w.toNat % 16) && decide (w.toNat % 16 ≤ 12)

namespace Machine

/-- An expression whose word selectors name one of the eight words (rule R61). -/
def exprWf : HostExpr → Bool
  | .lit _ => true
  | .var _ => true
  | .add a b => exprWf a && exprWf b
  | .mul a b => exprWf a && exprWf b
  | .land a b => exprWf a && exprWf b
  | .lor a b => exprWf a && exprWf b
  | .ne a b => exprWf a && exprWf b
  | .word a k => exprWf a && decide (k < 8)

/-- A literal written to the bus is a 32-bit word (rule R98). -/
def writeValueWf : HostExpr → Bool
  | .lit n => decide (n < 2 ^ 32)
  | e => exprWf e

/-- A line of program `p` is well formed: its access is an aligned 32-bit one inside the window (rule R241), its
expressions are well formed, and the label it branches to stands in `p` exactly once (rule R98). -/
def lineWf (p : List HostLine) : HostLine → Bool
  | .write size off v => accessOk size off && writeValueWf v
  | .read size _ off => accessOk size off
  | .bnz _ _ name => p.count (.label name) == 1
  | .bz _ _ name => p.count (.label name) == 1
  | .label name => p.count (.label name) == 1
  | .assign _ e => exprWf e
  | .waitIrq => true

/-- A well-formed host program (rules R98, R241). -/
def programWf (p : List HostLine) : Bool := p.all (lineWf p)

/-- The canonical form of the host's variables: strictly rising, no value 0. -/
def varsWf : List (Nat × Nat) → Bool
  | [] => true
  | (_, v) :: [] => decide (v ≠ 0)
  | (x, v) :: (y, w) :: rest => decide (v ≠ 0) && decide (x < y) && varsWf ((y, w) :: rest)

end Machine

end Sys2Proof
end

