-- ==== Sys2Proof/Safety.lean ====
section
/-! DEFINITION. The terms claims are stated in: what a completion leaves, the invariants of the block, and the end of a run. -/

namespace Sys2Proof.Machine

/-- The RES registers hold these three values (rule R94's order). -/
def ResultsAre (t : State) (a b c : U256) : Prop := t.res[0] = a ∧ t.res[1] = b ∧ t.res[2] = c

/-- What no completion step writes (rule R280): ARG, CMD, CTRL, BUSY_WRITE, accel_pending, and what is no state of the
block. -/
structure FrameOfCompletion (s t : State) : Prop where
  args : t.args = s.args
  cmd : t.cmd = s.cmd
  ctrl : t.ctrl = s.ctrl
  busyWrite : t.status.busyWrite = s.status.busyWrite
  accelPending : t.accelPending = s.accelPending
  host : t.host = s.host
  turns : t.turns = s.turns
  draws : t.draws = s.draws

/-- `t` is `s` after a completion step with these flags (rules R246, R280): BUSY 0, DONE 1, ERR, ACCEL_USED, DEGEN, DONE_IRQ 1,
the sequencer IDLE, and everything a completion does not write unchanged. -/
structure CompletedWith (s t : State) (err : ErrCode) (accelUsed degen : Bool) : Prop where
  busy : t.status.busy = false
  done : t.status.done = true
  err : t.status.err = err
  accelUsed : t.status.accelUsed = accelUsed
  degen : t.status.degen = degen
  doneIrq : t.doneIrq = true
  idle : t.seq = .idle
  frame : FrameOfCompletion s t

/-- The table store and TABLE_VALID are unchanged. -/
def TableUntouched (s t : State) : Prop := t.table = s.table ∧ t.status.tableValid = s.status.tableValid

/-- The table store holds this table and TABLE_VALID is 1 (rule R35). -/
def TableWritten (t : State) (table : Vector Jac 16) : Prop :=
  t.table = storeTable table ∧ t.status.tableValid = true

/-- An error completion (rule R246): zero results, the code, DEGEN and ACCEL_USED 0, the table untouched. -/
def ErrorCompletion (s t : State) (code : ErrCode) : Prop :=
  CompletedWith s t code false false ∧ ResultsAre t 0 0 0 ∧ TableUntouched s t

/-- Every piece of the block's state holds its reset value (rules R46, R270), whatever the other agents' state. -/
def BlockIsReset (t : State) : Prop := { t with host := State.reset.host, turns := [], draws := 0 } = State.reset

/-- The handshake invariant (rules R29, R40): BUSY is 1 exactly outside IDLE; BUSY and DONE are never both 1; while BUSY = 1,
ERR, ACCEL_USED and DEGEN are 0. -/
structure HandshakeInv (s : State) : Prop where
  busy_iff : s.status.busy = true ↔ s.seq ≠ .idle
  not_both : ¬(s.status.busy = true ∧ s.status.done = true)
  quiet : s.status.busy = true → s.status.err = .noError ∧ s.status.accelUsed = false ∧ s.status.degen = false

/-- The coordinates of a table entry are below P. -/
def entryInRange (e : Entry) : Prop := e.x.toNat < Curve.P ∧ e.y.toNat < Curve.P ∧ e.z.toNat < Curve.P

/-- The table invariant (rules R33, R34, R35): TABLE[0] is (0, 0, 0), every coordinate is below P, and while TABLE_VALID = 0
every entry is (0, 0, 0). -/
structure TableInv (s : State) : Prop where
  zero : s.table[0] = { x := 0, y := 0, z := 0 }
  inRange : ∀ k : Fin 16, entryInRange s.table[k]
  invalid : s.status.tableValid = false → s.table = State.reset.table

/-- The accelerator invariant (rules R40, R43, R220, R221): accel_pending is 1 exactly while a request has no answer, and a
request is one of VERIFY or VERIFY_STRICT, carries ARG0 to ARG4, and passed the validation. -/
structure AccelInv (s : State) : Prop where
  pending_iff : s.accelPending = true ↔ ∃ op p, s.seq = .waitAccel op p none
  request : ∀ op p a, s.seq = .waitAccel op p a →
    (op = .verify ∨ op = .verifyStrict) ∧ p = requestPayload s ∧ wellFormedInput s = true ∧ Config.accelPresent = true

/-- The block's whole invariant. -/
structure BlockInv (s : State) : Prop where
  handshake : HandshakeInv s
  table : TableInv s
  accel : AccelInv s

/-- The host's invariant: a well-formed program and canonical variables. -/
def HostInv (s : State) : Prop := programWf s.host.program = true ∧ varsWf s.host.vars = true

/-- A run of the host's program has ended (rule R288): the host has performed its last operation, the sequencer is IDLE and
no request is pending. -/
def runEnded (s : State) : Bool :=
  decide (s.host.program.length ≤ s.host.pos) && decide (s.seq = .idle) && !s.accelPending

/-- A result a claim may rest on (rules R245, R288): the last command completed with ERR = 0 and no degenerate evaluation. -/
def exactResult (s : State) : Bool := s.status.done && decide (s.status.err = .noError) && !s.status.degen

/-- Rule R32: the properties of the constants that other rules rely on, each derived from rule R31's values. -/
structure ConstantProperties : Prop where
  /-- P is prime. -/
  p_prime : Curve.P.Prime
  /-- N, the order of G, is prime. -/
  n_prime : Curve.N.Prime
  /-- RECOVER's square root relies on it. -/
  p_mod_four : Curve.P % 4 = 3
  root_exponent : (Curve.P + 1) / 4 = 0x3FFFFFFFC0000000400000000000000000000000400000000000000000000000
  n_lt_p : Curve.N < Curve.P
  p_sub_n : Curve.P - Curve.N = 0x4319055358E8617B0C46353D039CDAAE
  n_odd : Curve.N % 2 = 1
  n_mod_four : Curve.N % 4 = 1
  /-- G is on the curve. -/
  g_on_curve : Curve.GY ^ 2 % Curve.P = (Curve.GX ^ 3 + Curve.A * Curve.GX + Curve.B) % Curve.P
  /-- N·G = O, in the form in which the spec evaluates it (93_implementation_defined.md K2): `multiply` with (N, 0). -/
  n_times_g : multiply (build Curve.GX Curve.GY) Curve.N 0 = sentinel
  /-- x³ + A·x + B has no root in [0, P). -/
  no_root : ∀ x, x < Curve.P → (x ^ 3 + Curve.A * x + Curve.B) % Curve.P ≠ 0
  /-- So no curve point has y = 0. -/
  y_ne_zero : ∀ x, validKey x 0 = false
  /-- And RECOVER's ry2 is never 0. -/
  ry2_ne_zero : ∀ r, curveRhs r ≠ 0
  half_n : Curve.halfN = (Curve.N - 1) / 2
  two_half_n : 2 * Curve.halfN + 1 = Curve.N

/-! The terms of the multiplier's and the point operations' claims. -/

/-- Round i's two bits of an original scalar: bits [255 - 2i : 254 - 2i] (rule R192). -/
def scalarDigit (u i : Nat) : Nat := u / 2 ^ (254 - 2 * i) % 4

/-- Entry 4·d1 + d2 of a table (rule R180). -/
def tableEntry (t : Vector Jac 16) (d1 d2 : Nat) : Jac := t.toList.getD (4 * d1 + d2) jacIdentity

/-- One round on the original scalars' digits d1 and d2 (rules R190, R193): two doublings of an accumulator that is not
identity-marked, then nothing, a copy or an addition. -/
def digitRound (t : Vector Jac 16) (d1 d2 : Nat) (a : Jac) : Jac :=
  let a' := if a.z = 0 then a else jdbl (jdbl a)
  if 4 * d1 + d2 = 0 then a' else if a'.z = 0 then tableEntry t d1 d2 else jadd a' (tableEntry t d1 d2)

/-- Some evaluation of that round is degenerate (rule R166). -/
def digitRoundDegenerate (t : Vector Jac 16) (d1 d2 : Nat) (a : Jac) : Prop :=
  let a' := if a.z = 0 then a else jdbl (jdbl a)
  (a.z ≠ 0 ∧ (jdblDegenerate a = true ∨ jdblDegenerate (jdbl a) = true)) ∨
    (4 * d1 + d2 ≠ 0 ∧ a'.z ≠ 0 ∧ jaddDegenerate a' (tableEntry t d1 d2) = true)

/-- The P-256 curve y² = x³ + A·x + B over the field of P elements (rule R31), as a Weierstrass curve. -/
def p256 : WeierstrassCurve.Affine (ZMod Curve.P) :=
  { a₁ := 0, a₂ := 0, a₃ := 0, a₄ := (Curve.A : ZMod Curve.P), a₆ := (Curve.B : ZMod Curve.P) }

/-- An affine pair is the group's point: the sentinel for O (rule R13), else its coordinates. -/
def IsPoint (a : Affine) : p256.Point → Prop
  | .zero => a = sentinel
  | @WeierstrassCurve.Affine.Point.some _ _ _ x y _ => (a.x : ZMod Curve.P) = x ∧ (a.y : ZMod Curve.P) = y

end Sys2Proof.Machine
end

