-- ==== Sys2Proof/Certificates/Slice0/Obligations.lean ====
section
/-! DEFINITION. The statements for the provers, family by family in the spec's order. -/

open Sys2Proof Sys2Proof.Machine

/-! ## Command words -/

/-- Rule R93's opcode map, with the words written out from its table: each of the twelve words is its command's and no other
word is (mask 0xFFFFFFFF). -/
def Obligations.OnlyTheTableWordsAreCommands : Prop :=
  (encode .inv = 0x00000001 ∧ encode .modexp = 0x00000002 ∧ encode .validateKey = 0x00000003 ∧
    encode .checkSig = 0x00000004 ∧ encode .jadd = 0x00000005 ∧ encode .jdbl = 0x00000006 ∧
    encode .toaffine = 0x00000007 ∧ encode .buildTable = 0x00000008 ∧ encode .shamir = 0x00000009 ∧
    encode .verify = 0x0000000A ∧ encode .verifyStrict = 0x0000000B ∧ encode .recover = 0x0000000C) ∧
  ∀ (w : Word) (i : Instr), decode w = .ok i ↔ w = encode i

/-- A few words, written out bit by bit from rule R90's format and rule R93's table. -/
def Obligations.SampleWordsDecode : Prop :=
  decode 0b00000000000000000000000000000001 = .ok .inv ∧
  decode 0b00000000000000000000000000000011 = .ok .validateKey ∧
  decode 0b00000000000000000000000000000110 = .ok .jdbl ∧
  decode 0b00000000000000000000000000001001 = .ok .shamir ∧
  decode 0b00000000000000000000000000001100 = .ok .recover ∧
  decode 0b00000000000000000000000000000000 = .error .unusedOpcode ∧
  decode 0b00000000000000000000000000001101 = .error .unusedOpcode ∧
  decode 0b00000000000000000000000000010001 = .error .reservedBits ∧
  decode 0b10000000000000000000000000001010 = .error .reservedBits

/-- Rule R91: every word decodes, by the three cases in its order; an ILLEGAL word is accepted like any other, and its
completion is the error ILLEGAL_CMD with rule R246's effects and no others. -/
def Obligations.EveryWordDecodesAndIllegalCompletes : Prop :=
  (∀ w : Word, w.toNat / 16 ≠ 0 → opOfWord w = .illegal) ∧
  (∀ w : Word, w.toNat / 16 = 0 → (w.toNat % 16 = 0x0 ∨ w.toNat % 16 = 0xD ∨ w.toNat % 16 = 0xE ∨ w.toNat % 16 = 0xF) →
    opOfWord w = .illegal) ∧
  (∀ (w : Word) (i : Instr), w.toNat / 16 = 0 → w.toNat % 16 = opcodeOf i → opOfWord w = .command i) ∧
  (∀ (w : Word) (s : State), s.status.busy = false →
    ∃ t, memWrite 4 0x00C w s = .ok t ∧ t.cmd = w ∧ t.status.busy = true ∧ t.seq = .run (opOfWord w) s.ctrl.accelEn) ∧
  errCode .illegalCmd = 1 ∧
  ∀ (s : State) (accelEn : Bool), s.seq = .run .illegal accelEn →
    ∃ t, sequencerTurn s = .next t ∧ ErrorCompletion s t .illegalCmd

/-- A step runs the decoded command: acceptance of a word that decodes to `i` leaves the sequencer running `i`, and the
sequencer's turn is `exec i` on the state with the turn taken. `withFetchWord` is an acceptance whose next step is that. The
placing is the model's choice (log entry 13). -/
def Obligations.StepRunsTheDecodedCommand : Prop :=
  (∀ (w : Word) (i : Instr) (s : State), decode w = .ok i → (accept w s).seq = .run (.command i) s.ctrl.accelEn) ∧
  (∀ (i : Instr) (s : State), nextTurn s = .sequencer →
    ((∃ accelEn, s.seq = .run (.command i) accelEn) ∨ ∃ p a, s.seq = .waitAccel i p a) → step s = exec i (popTurn s)) ∧
  ∀ (w : Word) (i : Instr) (s : State), decode w = .ok i → step (s.withFetchWord 32 w.toNat) = exec i (accept w s)

/-! ## The register window -/

/-- Rule R61: a 256-bit register is its eight words, the most significant at the lowest offset, and each of the window's
256-bit registers is laid out so. -/
def Obligations.WindowLaysOutRegistersBigEndian : Prop :=
  (∀ (v : U256) (k : Fin 8), (wordOf v k).toNat = v.toNat / 2 ^ (224 - 32 * k.val) % 2 ^ 32) ∧
  (∀ v : U256, v.toNat = ∑ k : Fin 8, (wordOf v k).toNat * 2 ^ (32 * (7 - k.val))) ∧
  ∀ (s : State) (k : Fin 8),
    (∀ i : Fin 6, memRead 4 (0x100 + 0x20 * i.val + 4 * k.val) s = .ok (wordOf s.args[i] k)) ∧
    (∀ n : Fin 7, memRead 4 (0x300 + 0x20 * n.val + 4 * k.val) s = .ok (wordOf (romValue n) k)) ∧
    (s.status.busy = false →
      (∀ j : Fin 3, memRead 4 (0x200 + 0x20 * j.val + 4 * k.val) s = .ok (wordOf s.res[j] k)) ∧
      ∀ (e : Fin 16) (c : Fin 3), memRead 4 (0x400 + 0x60 * e.val + 0x20 * c.val + 4 * k.val) s =
        .ok (wordOf (entryCoord s.table[e] c) k))

/-- Rule R44: while BUSY = 1 every RES and TABLE word reads 0 and such a read has no side effect (the host's turn on it
changes the host's own state alone), and the other registers read their normal values. -/
def Obligations.ResultsReadZeroWhileBusy : Prop :=
  ∀ s : State, s.status.busy = true →
    (∀ off, off % 4 = 0 → (0x200 ≤ off ∧ off ≤ 0x25F) ∨ (0x400 ≤ off ∧ off ≤ 0x9FF) →
      memRead 4 off s = .ok 0 ∧
      ∀ x, s.host.program[s.host.pos]? = some (.read 4 x off) →
        ∃ t, hostTurn s = .next t ∧ { t with host := s.host } = s) ∧
    memRead 4 0x000 s = .ok 0x50323536 ∧ memRead 4 0x004 s = .ok (if Config.accelPresent then 1 else 0) ∧
    memRead 4 0x008 s = .ok (ctrlWord s.ctrl) ∧ memRead 4 0x00C s = .ok s.cmd ∧
    memRead 4 0x010 s = .ok (statusWord s.status) ∧ memRead 4 0x014 s = .ok (irqStatusWord s.doneIrq) ∧
    (∀ (i : Fin 6) (k : Fin 8), memRead 4 (0x100 + 0x20 * i.val + 4 * k.val) s = .ok (wordOf s.args[i] k)) ∧
    ∀ (n : Fin 7) (k : Fin 8), memRead 4 (0x300 + 0x20 * n.val + 4 * k.val) s = .ok (wordOf (romValue n) k)

/-- Rules R27 to R30 and R240: the bits of CTRL, CMD, STATUS and IRQ_STATUS as the host reads them, in every state, with the
reserved bits 0 and the error codes of rule R240's table. -/
def Obligations.StatusAndControlWordsAreLaidOut : Prop :=
  (∀ s : State, ∃ st ct iq : Word,
    memRead 4 0x010 s = .ok st ∧ memRead 4 0x008 s = .ok ct ∧ memRead 4 0x014 s = .ok iq ∧ memRead 4 0x00C s = .ok s.cmd ∧
    st.getLsbD 0 = s.status.busy ∧ st.getLsbD 1 = s.status.done ∧ st.getLsbD 2 = s.status.tableValid ∧
    st.getLsbD 3 = s.status.busyWrite ∧ st.toNat / 16 % 16 = errCode s.status.err ∧
    st.getLsbD 8 = s.status.accelUsed ∧ st.getLsbD 9 = s.status.degen ∧ st.toNat < 2 ^ 10 ∧
    ct.getLsbD 0 = false ∧ ct.getLsbD 1 = s.ctrl.accelEn ∧ ct.getLsbD 2 = s.ctrl.irqEn ∧ ct.toNat < 2 ^ 3 ∧
    iq.getLsbD 0 = s.doneIrq ∧ iq.toNat < 2) ∧
  errCode .noError = 0 ∧ errCode .illegalCmd = 1 ∧ errCode .range = 2 ∧ errCode .notInvertible = 3 ∧
  errCode .badModulus = 4 ∧ errCode .noTable = 5 ∧ errCode .accelUnavailable = 6 ∧ errCode .accelFault = 7

/-- Rules R25, R26: ID and CAPS are hardwired, in every state and so after every reset, and read-only. -/
def Obligations.IdentificationIsHardwired : Prop :=
  ∀ s : State, memRead 4 0x000 s = .ok 0x50323536 ∧ memRead 4 0x000 (resetBlock s) = .ok 0x50323536 ∧
    memRead 4 0x004 s = .ok (if Config.accelPresent then 1 else 0) ∧
    ∀ v, memWrite 4 0x000 v s = .ok s ∧ memWrite 4 0x004 v s = .ok s

/-- Rule R31's values, as the naturals the ROM registers hold, and rule R32's list of their properties, which the spec derives
from rule R31: P and N are prime; P mod 4 = 3 and (P + 1)/4; N < P with P − N, N mod 4 = 1 and so N odd; G is on the curve;
x³ + A·x + B has no root in [0, P); HALF_N = (N − 1)/2; and N·G = O in the form in which the spec evaluates it
(93_implementation_defined.md K2): the multiplier on (N, 0) gives the sentinel. -/
def Obligations.RomHoldsTheCurveConstants : Prop :=
  let p := (romValue 0).toNat
  let n := (romValue 1).toNat
  let a := (romValue 2).toNat
  let b := (romValue 3).toNat
  let gx := (romValue 4).toNat
  let gy := (romValue 5).toNat
  let halfN := (romValue 6).toNat
  p = 2 ^ 256 - 2 ^ 224 + 2 ^ 192 + 2 ^ 96 - 1 ∧
  n = 0xFFFFFFFF00000000FFFFFFFFFFFFFFFFBCE6FAADA7179E84F3B9CAC2FC632551 ∧
  a + 3 = p ∧
  b = 0x5AC635D8AA3A93E7B3EBBD55769886BC651D06B0CC53B0F63BCE3C3E27D2604B ∧
  gx = 0x6B17D1F2E12C4247F8BCE6E563A440F277037D812DEB33A0F4A13945D898C296 ∧
  gy = 0x4FE342E2FE1A7F9B8EE7EB4A7C0F9E162BCE33576B315ECECBB6406837BF51F5 ∧
  2 * halfN + 1 = n ∧ halfN = (n - 1) / 2 ∧
  p.Prime ∧ n.Prime ∧
  p % 4 = 3 ∧ (p + 1) / 4 = 0x3FFFFFFFC0000000400000000000000000000000400000000000000000000000 ∧
  n < p ∧ p - n = 0x4319055358E8617B0C46353D039CDAAE ∧ n % 4 = 1 ∧
  gy ^ 2 % p = (gx ^ 3 + a * gx + b) % p ∧
  (∀ x, x < p → (x ^ 3 + a * x + b) % p ≠ 0) ∧
  multiply (build gx gy) n 0 = sentinel

/-- Rule R63, row by row: what an aligned 32-bit write does at every offset of the window. -/
def Obligations.WindowWriteEffects : Prop :=
  ∀ (s : State) (v : Word),
    (v.getLsbD 0 = true → memWrite 4 0x008 v s = .ok (resetBlock s)) ∧
    (v.getLsbD 0 = false →
      memWrite 4 0x008 v s = .ok { s with ctrl := { accelEn := v.getLsbD 1, irqEn := v.getLsbD 2 } }) ∧
    (s.status.busy = false → memWrite 4 0x00C v s = .ok (accept v s)) ∧
    (s.status.busy = true → memWrite 4 0x00C v s = .ok { s with status := { s.status with busyWrite := true } }) ∧
    memWrite 4 0x014 v s = .ok { s with doneIrq := s.doneIrq && !v.getLsbD 0 } ∧
    (∀ (i : Fin 6) (k : Fin 8), s.status.busy = false →
      ∃ u : U256, memWrite 4 (0x100 + 0x20 * i.val + 4 * k.val) v s = .ok { s with args := s.args.set i u } ∧
        wordOf u k = v ∧ ∀ j, j ≠ k → wordOf u j = wordOf s.args[i] j) ∧
    (∀ (i : Fin 6) (k : Fin 8), s.status.busy = true →
      memWrite 4 (0x100 + 0x20 * i.val + 4 * k.val) v s = .ok { s with status := { s.status with busyWrite := true } }) ∧
    ∀ off, off % 4 = 0 → off < 0x1000 → off ≠ 0x008 → off ≠ 0x00C → off ≠ 0x014 → ¬(0x100 ≤ off ∧ off < 0x1C0) →
      memWrite 4 off v s = .ok s

/-- Rule R62: exactly the accesses that are not aligned 32-bit ones inside the window get the bus error, which carries no
state; the host's turn on such a line is the fault. That a bus error stops the run as a fault is the model's choice (log
entry 11). -/
def Obligations.BusErrorExactlyOnMalformedAccesses : Prop :=
  ∀ (size off : Nat) (v : Word) (s : State),
    (memRead size off s = .error .busError ↔ ¬(size = 4 ∧ off % 4 = 0 ∧ off < 0x1000)) ∧
    (memWrite size off v s = .error .busError ↔ ¬(size = 4 ∧ off % 4 = 0 ∧ off < 0x1000)) ∧
    (∀ e x, s.host.program[s.host.pos]? = some (.write size off e) ∨ s.host.program[s.host.pos]? = some (.read size x off) →
      (hostTurn s = .fault .busError ↔ ¬(size = 4 ∧ off % 4 = 0 ∧ off < 0x1000)))

/-- Rules R270, R271: a hardware reset and a CTRL write with bit 0 = 1 leave every state of the block at its reset value, in
any sequencer state, whatever the write's other bits; a response that comes after is ignored. That a hardware reset keeps the
host is the model's choice (log entry 17). -/
def Obligations.BothResetsResetTheBlock : Prop :=
  (∀ (s : State) (v : Word), v.getLsbD 0 = true →
    ∃ t, memWrite 4 0x008 v s = .ok t ∧ BlockIsReset t ∧ ∀ code, takeResponse code t = t) ∧
  ∀ s : State, nextTurn s = .hardReset → ∃ t, step s = .next t ∧ BlockIsReset t ∧ t.host = s.host

/-- Rule R46: when the block's state is the reset state, every word of the window but ID, CAPS and the constant ROM reads 0,
those three read their hardwired values, the sequencer is IDLE, no request is pending and the interrupt output is deasserted. -/
def Obligations.ResetReadsZero : Prop :=
  BlockIsReset State.reset ∧
  ∀ t : State, BlockIsReset t →
    (∀ off, off % 4 = 0 → off < 0x1000 → off ≠ 0x000 → off ≠ 0x004 → ¬(0x300 ≤ off ∧ off < 0x3E0) →
      memRead 4 off t = .ok 0) ∧
    memRead 4 0x000 t = .ok 0x50323536 ∧ memRead 4 0x004 t = .ok (if Config.accelPresent then 1 else 0) ∧
    (∀ (n : Fin 7) (k : Fin 8), memRead 4 (0x300 + 0x20 * n.val + 4 * k.val) t = .ok (wordOf (romValue n) k)) ∧
    t.seq = .idle ∧ t.accelPending = false ∧ irqOut t = false

/-- Rule R95: what acceptance changes, and what it leaves unchanged. -/
def Obligations.AcceptanceClearsTheFlags : Prop :=
  ∀ (w : Word) (s : State), s.status.busy = false →
    ∃ t, memWrite 4 0x00C w s = .ok t ∧ t.cmd = w ∧ t.seq = .run (opOfWord w) s.ctrl.accelEn ∧
      t.status.busy = true ∧ t.status.done = false ∧ t.status.err = .noError ∧ t.status.busyWrite = false ∧
      t.status.accelUsed = false ∧ t.status.degen = false ∧
      t.doneIrq = s.doneIrq ∧ t.status.tableValid = s.status.tableValid ∧ t.res = s.res ∧ t.table = s.table ∧
      t.args = s.args ∧ t.ctrl = s.ctrl ∧ t.accelPending = s.accelPending ∧ t.host = s.host

/-! ## Field arithmetic -/

/-- Rule R120: INV's result and errors for every operand. The result is the exact Fermat power a^(m-2) mod m. -/
def Obligations.InvWritesTheFermatPower : Prop :=
  encode .inv = 0x00000001 ∧ errCode .badModulus = 4 ∧ errCode .notInvertible = 3 ∧
  ∀ s : State, ∃ t, exec .inv s = .next t ∧
    (argNat s 1 = 0 → ErrorCompletion s t .badModulus) ∧
    (argNat s 1 ≠ 0 → argNat s 0 % argNat s 1 = 0 → ErrorCompletion s t .notInvertible) ∧
    (argNat s 1 ≠ 0 → argNat s 0 % argNat s 1 ≠ 0 →
      CompletedWith s t .noError false false ∧ TableUntouched s t ∧
      t.res[0].toNat = argNat s 0 ^ (argNat s 1 - 2) % argNat s 1 ∧ t.res[1] = 0 ∧ t.res[2] = 0)

/-- Rule R112: for a prime modulus INV's result is the unique inverse in [1, m). The spec marks it general knowledge
(Fermat's little theorem). -/
def Obligations.InvInvertsForPrimeModulus : Prop :=
  ∀ s : State, (argNat s 1).Prime → argNat s 0 % argNat s 1 ≠ 0 →
    ∃ t, exec .inv s = .next t ∧ t.status.err = .noError ∧
      1 ≤ t.res[0].toNat ∧ t.res[0].toNat < argNat s 1 ∧ argNat s 0 * t.res[0].toNat % argNat s 1 = 1 ∧
      ∀ x, x < argNat s 1 → argNat s 0 * x % argNat s 1 = 1 → x = t.res[0].toNat

/-- Rules R113, R125: MODEXP's result is the exact integer power's remainder for every operand, with b^0 = 1, and its error. -/
def Obligations.ModexpWritesTheExactPower : Prop :=
  encode .modexp = 0x00000002 ∧ errCode .badModulus = 4 ∧
  ∀ s : State, ∃ t, exec .modexp s = .next t ∧
    (argNat s 2 = 0 → ErrorCompletion s t .badModulus) ∧
    (argNat s 2 ≠ 0 →
      CompletedWith s t .noError false false ∧ TableUntouched s t ∧
      t.res[0].toNat = argNat s 0 ^ argNat s 1 % argNat s 2 ∧ t.res[1] = 0 ∧ t.res[2] = 0)

/-- Rule R125's corner case: with m = P and e = (P + 1)/4 the result is a square root of every square. -/
def Obligations.ModexpTakesSquareRoots : Prop :=
  ∀ s : State, argNat s 1 = (Curve.P + 1) / 4 → argNat s 2 = Curve.P → IsSquare (argNat s 0 : ZMod Curve.P) →
    ∃ t, exec .modexp s = .next t ∧ t.status.err = .noError ∧
      (t.res[0].toNat : ZMod Curve.P) ^ 2 = (argNat s 0 : ZMod Curve.P)

/-! ## Validation -/

/-- Rule R140: VALIDATE_KEY answers 1 exactly when both coordinates are below P and the curve equation holds in exact
arithmetic; it raises no error; and the rule's corner cases (the sentinel's is the spec's inference from B ≠ 0). -/
def Obligations.ValidateKeyDecidesTheCurveEquation : Prop :=
  encode .validateKey = 0x00000003 ∧
  (∀ s : State, ∃ t, exec .validateKey s = .next t ∧ CompletedWith s t .noError false false ∧ TableUntouched s t ∧
    t.res[1] = 0 ∧ t.res[2] = 0 ∧ (t.res[0] = 0 ∨ t.res[0] = 1) ∧
    (t.res[0] = 1 ↔ argNat s 0 < Curve.P ∧ argNat s 1 < Curve.P ∧
      argNat s 1 ^ 2 % Curve.P = (argNat s 0 ^ 3 + Curve.A * argNat s 0 + Curve.B) % Curve.P)) ∧
  (∀ y, validKey Curve.P y = false) ∧ validKey 0 0 = false ∧
  validKey 0 0x66485C780E2F83D72433BD5D84A06BB6541C2AF31DAE871728BF856A174F93F4 = true ∧
  (∀ x y, validKey x y = true → validKey x (Curve.P - y) = true) ∧
  validKey Curve.GX Curve.GY = true ∧ validKey Curve.GX (Curve.GY + 1) = false

/-- Rule R145: CHECK_SIG answers 1 exactly when 0 < r < N and 0 < s ≤ N/2; it raises no error; and a valid signature's
non-canonical twin is rejected (the spec's inference from s ≤ HALF_N). -/
def Obligations.CheckSigAcceptsExactlyLowS : Prop :=
  encode .checkSig = 0x00000004 ∧
  (∀ s : State, ∃ t, exec .checkSig s = .next t ∧ CompletedWith s t .noError false false ∧ TableUntouched s t ∧
    t.res[1] = 0 ∧ t.res[2] = 0 ∧ (t.res[0] = 0 ∨ t.res[0] = 1) ∧
    (t.res[0] = 1 ↔ 0 < argNat s 0 ∧ argNat s 0 < Curve.N ∧ 0 < argNat s 1 ∧ argNat s 1 ≤ Curve.N / 2)) ∧
  ∀ r s, properSig r s = true → properSig r (Curve.N - s) = false

/-! ## Point operations -/

/-- Rule R160: one coordinate operand at P or above ends JADD, JDBL or TOAFFINE with RANGE, code 2. -/
def Obligations.PointOperandsOutOfRangeAreRejected : Prop :=
  errCode .range = 2 ∧
  (∀ s : State, (∃ i : Fin 6, Curve.P ≤ argNat s i) → ∃ t, exec .jadd s = .next t ∧ ErrorCompletion s t .range) ∧
  (∀ s : State, (∃ i : Fin 6, i < 3 ∧ Curve.P ≤ argNat s i) → ∃ t, exec .jdbl s = .next t ∧ ErrorCompletion s t .range) ∧
  ∀ s : State, (∃ i : Fin 6, i < 3 ∧ Curve.P ≤ argNat s i) → ∃ t, exec .toaffine s = .next t ∧ ErrorCompletion s t .range

/-- Rules R161, R162: on operands below P, JADD writes the formulas of rule R162 evaluated in exact integers and reduced, for
every input, and DEGEN is 1 exactly when rule R166 marks the evaluation. -/
def Obligations.JaddEvaluatesTheFormulas : Prop :=
  ∀ s : State, (∀ i : Fin 6, argNat s i < Curve.P) →
    let x1 : Int := argNat s 0
    let y1 : Int := argNat s 1
    let z1 : Int := argNat s 2
    let x2 : Int := argNat s 3
    let y2 : Int := argNat s 4
    let z2 : Int := argNat s 5
    let u1 := x1 * z2 ^ 2
    let h := x2 * z1 ^ 2 - u1
    let s1 := y1 * z2 ^ 3
    let r := y2 * z1 ^ 3 - s1
    let x' := r ^ 2 - h ^ 3 - 2 * u1 * h ^ 2
    let y' := r * (u1 * h ^ 2 - x') - s1 * h ^ 3
    let z' := h * z1 * z2
    ∃ t d, exec .jadd s = .next t ∧ CompletedWith s t .noError false d ∧ TableUntouched s t ∧
      (t.res[0].toNat : Int) = x' % Curve.P ∧ (t.res[1].toNat : Int) = y' % Curve.P ∧
      (t.res[2].toNat : Int) = z' % Curve.P ∧ (d = true ↔ z1 = 0 ∨ z2 = 0 ∨ h % Curve.P = 0)

/-- Rule R161's corner cases: equal operands give (0, 0, 0) with DEGEN, not the double; an identity-marked operand gives Z' =
0 with DEGEN; and the negative of an operand with the same Z gives Z' = 0, X' = r², Y' = −r³. -/
def Obligations.JaddDegenerateCorners : Prop :=
  (∀ p : Jac, jadd p p = { x := 0, y := 0, z := 0 } ∧ jaddDegenerate p p = true) ∧
  (∀ p q : Jac, p.z = 0 ∨ q.z = 0 → (jadd p q).z = 0 ∧ jaddDegenerate p q = true) ∧
  ∀ p : Jac, p.x < Curve.P → p.y < Curve.P → p.z < Curve.P →
    let q : Jac := { p with y := Curve.P - p.y }
    (jadd p q).z = 0 ∧ ((jadd p q).x : ZMod Curve.P) = (jaddR p q : ZMod Curve.P) ^ 2 ∧
      ((jadd p q).y : ZMod Curve.P) = -(jaddR p q : ZMod Curve.P) ^ 3 ∧ jaddDegenerate p q = true

/-- Rule R161's corner case: swapping JADD's operands gives (X', (P − Y') mod P, (P − Z') mod P), with the same DEGEN. The
spec marks it derived from the formulas with h and r negated. -/
def Obligations.JaddSwappedOperandsNegate : Prop :=
  ∀ s s' : State, (∀ i : Fin 6, argNat s i < Curve.P) →
    s'.args[0] = s.args[3] → s'.args[1] = s.args[4] → s'.args[2] = s.args[5] →
    s'.args[3] = s.args[0] → s'.args[4] = s.args[1] → s'.args[5] = s.args[2] →
    ∃ t t', exec .jadd s = .next t ∧ exec .jadd s' = .next t' ∧ t'.status.degen = t.status.degen ∧
      t'.res[0] = t.res[0] ∧ t'.res[1].toNat = (Curve.P - t.res[1].toNat) % Curve.P ∧
      t'.res[2].toNat = (Curve.P - t.res[2].toNat) % Curve.P

/-- Rules R163, R164: on operands below P, JDBL writes the formulas of rule R164 evaluated in exact integers and reduced, and
DEGEN is 1 exactly when Z or Y is 0. -/
def Obligations.JdblEvaluatesTheFormulas : Prop :=
  ∀ s : State, (∀ i : Fin 6, i < 3 → argNat s i < Curve.P) →
    let x : Int := argNat s 0
    let y : Int := argNat s 1
    let z : Int := argNat s 2
    let m := 3 * x ^ 2 + Curve.A * z ^ 4
    let k := 4 * x * y ^ 2
    let x' := m ^ 2 - 2 * k
    let y' := m * (k - x') - 8 * y ^ 4
    let z' := 2 * y * z
    ∃ t d, exec .jdbl s = .next t ∧ CompletedWith s t .noError false d ∧ TableUntouched s t ∧
      (t.res[0].toNat : Int) = x' % Curve.P ∧ (t.res[1].toNat : Int) = y' % Curve.P ∧
      (t.res[2].toNat : Int) = z' % Curve.P ∧ (d = true ↔ z = 0 ∨ y = 0)

/-- Rule R163's corner case: an input scaled by λ, (λ²X, λ³Y, λZ), doubles to the result scaled by λ⁴, the same affine point. -/
def Obligations.JdblRespectsScaling : Prop :=
  ∀ (l : Nat) (p q : Jac), (q.x : ZMod Curve.P) = l ^ 2 * p.x → (q.y : ZMod Curve.P) = l ^ 3 * p.y →
    (q.z : ZMod Curve.P) = l * p.z →
    ((jdbl q).x : ZMod Curve.P) = (l ^ 4) ^ 2 * (jdbl p).x ∧ ((jdbl q).y : ZMod Curve.P) = (l ^ 4) ^ 3 * (jdbl p).y ∧
      ((jdbl q).z : ZMod Curve.P) = l ^ 4 * (jdbl p).z

/-- Rule R165: TOAFFINE of an identity-marked triple is the sentinel, and of any other triple below P the unique pair with
x·Z² ≡ X and y·Z³ ≡ Y; Z = 1 leaves the pair unchanged; DEGEN is 0. -/
def Obligations.ToaffineDividesByPowersOfZ : Prop :=
  ∀ s : State, (∀ i : Fin 6, i < 3 → argNat s i < Curve.P) →
    ∃ t, exec .toaffine s = .next t ∧ CompletedWith s t .noError false false ∧ TableUntouched s t ∧ t.res[2] = 0 ∧
      (argNat s 2 = 0 → t.res[0] = 0 ∧ t.res[1] = 0) ∧
      (argNat s 2 ≠ 0 → ∀ x y, x < Curve.P → y < Curve.P →
        ((t.res[0].toNat = x ∧ t.res[1].toNat = y) ↔
          (x * argNat s 2 ^ 2 % Curve.P = argNat s 0 ∧ y * argNat s 2 ^ 3 % Curve.P = argNat s 1))) ∧
      (argNat s 2 = 1 → t.res[0] = s.args[0] ∧ t.res[1] = s.args[1])

/-- Rule R167, addition: on triples below P whose Z is not 0 and whose affine x-coordinates differ (h ≠ 0), the affine form
of jadd is the chord law on the affine forms. The spec marks it general knowledge. -/
def Obligations.JaddIsTheChordLaw : Prop :=
  ∀ p q : Jac, inRange p = true → inRange q = true → jaddDegenerate p q = false →
    let x1 : ZMod Curve.P := (toAffine p).x
    let y1 : ZMod Curve.P := (toAffine p).y
    let x2 : ZMod Curve.P := (toAffine q).x
    let y2 : ZMod Curve.P := (toAffine q).y
    let l := (y2 - y1) * (x2 - x1)⁻¹
    x1 ≠ x2 ∧ (jadd p q).z ≠ 0 ∧ ((toAffine (jadd p q)).x : ZMod Curve.P) = l ^ 2 - x1 - x2 ∧
      ((toAffine (jadd p q)).y : ZMod Curve.P) = l * (x1 - (l ^ 2 - x1 - x2)) - y1

/-- Rule R167, doubling: on a triple below P that is not degenerate, the affine form of jdbl is the tangent law on the affine
form. The spec marks it general knowledge. -/
def Obligations.JdblIsTheTangentLaw : Prop :=
  ∀ p : Jac, inRange p = true → jdblDegenerate p = false →
    let x : ZMod Curve.P := (toAffine p).x
    let y : ZMod Curve.P := (toAffine p).y
    let l := (3 * x ^ 2 + Curve.A) * (2 * y)⁻¹
    y ≠ 0 ∧ (jdbl p).z ≠ 0 ∧ ((toAffine (jdbl p)).x : ZMod Curve.P) = l ^ 2 - 2 * x ∧
      ((toAffine (jdbl p)).y : ZMod Curve.P) = l * (x - (l ^ 2 - 2 * x)) - y

/-! ## Table and multiplier -/

/-- Rules R181, R182: BUILD_TABLE of coordinates below P writes the table of rule R181's chain, whatever the curve equation
says, with zero results; DEGEN is 1 exactly when one of the chain's evaluations is degenerate; out of range it is RANGE. -/
def Obligations.BuildTableWritesTheChain : Prop :=
  encode .buildTable = 0x00000008 ∧ errCode .range = 2 ∧
  (∀ s : State, argNat s 0 < Curve.P → argNat s 1 < Curve.P →
    ∃ (t : State) (T : Vector Jac 16) (d : Bool),
      exec .buildTable s = .next t ∧ CompletedWith s t .noError false d ∧ ResultsAre t 0 0 0 ∧ TableWritten t T ∧
      T[0] = { x := 0, y := 0, z := 0 } ∧ T[1] = { x := argNat s 0, y := argNat s 1, z := 1 } ∧
      T[2] = jdbl T[1] ∧ T[3] = jadd T[1] T[2] ∧ T[4] = { x := Curve.GX, y := Curve.GY, z := 1 } ∧
      T[8] = jdbl T[4] ∧ T[12] = jadd T[4] T[8] ∧
      (∀ row col : Fin 4, row ≠ 0 → col ≠ 0 →
        T[4 * row.val + col.val] = jadd T[4 * row.val] T[col.val]) ∧
      (d = true ↔ jdblDegenerate T[1] = true ∨ jaddDegenerate T[1] T[2] = true ∨ jdblDegenerate T[4] = true ∨
        jaddDegenerate T[4] T[8] = true ∨
        ∃ row col : Fin 4, row ≠ 0 ∧ col ≠ 0 ∧ jaddDegenerate T[4 * row.val] T[col.val] = true)) ∧
  ∀ s : State, Curve.P ≤ argNat s 0 ∨ Curve.P ≤ argNat s 1 →
    ∃ t, exec .buildTable s = .next t ∧ ErrorCompletion s t .range

/-- Rule R183 for the key d = 1: building from G itself is degenerate, and the entries that should be 2G, 4G and 6G are (0,
0, 0). The spec marks it derived from rules R181 and R167. -/
def Obligations.BuildFromTheGeneratorIsDegenerate : Prop :=
  ∀ s : State, argNat s 0 = Curve.GX → argNat s 1 = Curve.GY →
    ∃ t, exec .buildTable s = .next t ∧ t.status.err = .noError ∧ t.status.degen = true ∧
      t.table[5] = { x := 0, y := 0, z := 0 } ∧ t.table[10] = { x := 0, y := 0, z := 0 } ∧
      t.table[15] = { x := 0, y := 0, z := 0 }

/-- Rule R192: before round i the shifted scalars' top two bits are bits [255 − 2i : 254 − 2i] of the original scalars,
whatever the table and the earlier rounds were. -/
def Obligations.MultiplierConsumesTwoBitsPerRound : Prop :=
  ∀ (t : Vector Jac 16) (u1 u2 i : Nat), u1 < 2 ^ 256 → u2 < 2 ^ 256 → i < 128 →
    top2 (mulRounds t i (mulStart u1 u2)).u1 = scalarDigit u1 i ∧
    top2 (mulRounds t i (mulStart u1 u2)).u2 = scalarDigit u2 i

/-- Rules R190, R193, R196: SHAMIR before any table write since reset is NO_TABLE; with a valid table its result is the
affine form of 128 rounds, no fewer, on the original scalars' digits from the most significant, starting at (0, 0, 0); DEGEN
is 1 exactly when some round's evaluation is degenerate; the table is untouched. -/
def Obligations.ShamirRunsTheWindowedLoop : Prop :=
  encode .shamir = 0x00000009 ∧ errCode .noTable = 5 ∧
  (∀ s : State, s.status.tableValid = false → ∃ t, exec .shamir s = .next t ∧ ErrorCompletion s t .noTable) ∧
  ∀ s : State, s.status.tableValid = true →
    ∃ (t : State) (acc : Nat → Jac) (d : Bool),
      acc 0 = { x := 0, y := 0, z := 0 } ∧
      (∀ i, acc (i + 1) =
        digitRound (loadTable s.table) (scalarDigit (argNat s 0) i) (scalarDigit (argNat s 1) i) (acc i)) ∧
      exec .shamir s = .next t ∧ CompletedWith s t .noError false d ∧ TableUntouched s t ∧
      ResultsAre t (resOf (toAffine (acc 128)).x) (resOf (toAffine (acc 128)).y) 0 ∧
      (d = true ↔ ∃ i, i < 128 ∧
        digitRoundDegenerate (loadTable s.table) (scalarDigit (argNat s 0) i) (scalarDigit (argNat s 1) i) (acc i))

/-- Rules R191, R195: with both scalars 0 the accumulator is never written, so every valid table gives the sentinel, not
degenerate; with the table of Pt, the scalars (1, 0) give G and (0, 1) give Pt, not degenerate. -/
def Obligations.ShamirOfUnitScalars : Prop :=
  (∀ s : State, s.status.tableValid = true → s.args[0] = 0 → s.args[1] = 0 →
    ∃ t, exec .shamir s = .next t ∧ CompletedWith s t .noError false false ∧ ResultsAre t 0 0 0) ∧
  ∀ (s : State) (px py : Nat), s.status.tableValid = true → px < Curve.P → py < Curve.P →
    s.table = storeTable (build px py) →
    (s.args[0] = 1 → s.args[1] = 0 →
      ∃ t, exec .shamir s = .next t ∧ CompletedWith s t .noError false false ∧
        ResultsAre t (resOf Curve.GX) (resOf Curve.GY) 0) ∧
    (s.args[0] = 0 → s.args[1] = 1 →
      ∃ t, exec .shamir s = .next t ∧ CompletedWith s t .noError false false ∧ ResultsAre t (resOf px) (resOf py) 0)

/-- Rules R191, R194: with a table built without a degenerate evaluation from a curve point Pt, SHAMIR of any two 256-bit
scalars that ends with DEGEN = 0 gives the group's u1·G + u2·Pt, the sentinel for O. The spec marks it derived from rule
R167, by an induction over the rounds. -/
def Obligations.ShamirIsTheDoubleScalarProduct : Prop :=
  ∀ [Fact (Nat.Prime Curve.P)] (s t : State) (px py : Nat),
    validKey px py = true → buildDegenerate px py = false →
    s.status.tableValid = true → s.table = storeTable (build px py) → exec .shamir s = .next t → t.status.degen = false →
    ∃ (hG : p256.Nonsingular (Curve.GX : ZMod Curve.P) (Curve.GY : ZMod Curve.P))
      (hPt : p256.Nonsingular (px : ZMod Curve.P) (py : ZMod Curve.P)),
      IsPoint { x := t.res[0].toNat, y := t.res[1].toNat }
        (argNat s 0 • WeierstrassCurve.Affine.Point.some _ _ hG + argNat s 1 • WeierstrassCurve.Affine.Point.some _ _ hPt)

/-! ## Verification and recovery -/

/-- Rule R212: VERIFY, launched on a signature or key that its validation rejects, answers 0 with ERR = 0 and the table
untouched, whatever the accelerator; and a proper signature's twin is such a signature. The spec marks it derived from rules
R211, R140 and R145. -/
def Obligations.VerifyAnswersZeroOnMalformedInput : Prop :=
  (∀ (s : State) (op : Op) (accelEn : Bool), s.seq = .run op accelEn →
    (argNat s 1 = 0 ∨ argNat s 2 = 0 ∨ Curve.N ≤ argNat s 1 ∨ Curve.halfN + 1 ≤ argNat s 2 ∨
      Curve.P ≤ argNat s 3 ∨ Curve.P ≤ argNat s 4 ∨
      argNat s 4 ^ 2 % Curve.P ≠ (argNat s 3 ^ 3 + Curve.A * argNat s 3 + Curve.B) % Curve.P) →
    ∃ t, exec .verify s = .next t ∧ CompletedWith s t .noError false false ∧ ResultsAre t 0 0 0 ∧ TableUntouched s t) ∧
  ∀ r s : Nat, 0 < s → s ≤ Curve.halfN → properSig r (Curve.N - s) = false

/-- Rules R210, R211: VERIFY's own effect without an accelerator. On validated input, with ACCEL_EN sampled 0 or no
accelerator present, it completes with RES0 = 1 exactly when the multiplier's x mod N is r, for w the inverse of s mod N, u1
= h·w mod N on G and u2 = r·w mod N on the key; it writes the key's table and its DEGEN covers build and multiply. -/
def Obligations.VerifySoftwarePathComputesTheVerdict : Prop :=
  ∀ (s : State) (op : Op) (accelEn : Bool), s.seq = .run op accelEn → wellFormedInput s = true →
    (accelEn = false ∨ Config.accelPresent = false) →
    ∃ (t : State) (w : Nat), w < Curve.N ∧ argNat s 2 * w % Curve.N = 1 ∧
      let T := build (argNat s 3) (argNat s 4)
      let u1 := argNat s 0 * w % Curve.N
      let u2 := argNat s 1 * w % Curve.N
      exec .verify s = .next t ∧
        CompletedWith s t .noError false (buildDegenerate (argNat s 3) (argNat s 4) || multiplyDegenerate T u1 u2) ∧
        TableWritten t T ∧ ResultsAre t (if (multiply T u1 u2).x % Curve.N = argNat s 1 then 1 else 0) 0 0

/-- Rules R211, R215, R220: a request is sent exactly when the input is validated, an accelerator is present and, for VERIFY,
ACCEL_EN was sampled 1; it changes only the sequencer and accel_pending, and carries ARG0 to ARG4. The payload's home in the
sequencer is the model's choice (log entry 9). -/
def Obligations.RequestsAreSentExactlyWhenEnabled : Prop :=
  ∀ (s : State) (op : Op) (accelEn : Bool), s.seq = .run op accelEn → s.accelPending = false →
    (∃ t, exec .verify s = .next t ∧
      (t.accelPending = true ↔ wellFormedInput s = true ∧ accelEn = true ∧ Config.accelPresent = true) ∧
      (t.accelPending = true → t = { s with seq := .waitAccel .verify (requestPayload s) none, accelPending := true })) ∧
    ∃ t, exec .verifyStrict s = .next t ∧
      (t.accelPending = true ↔ wellFormedInput s = true ∧ Config.accelPresent = true) ∧
      (t.accelPending = true → t = { s with seq := .waitAccel .verifyStrict (requestPayload s) none, accelPending := true })

/-- Rules R211, R221: VERIFY after its response. VALID(b) is authoritative; RESERVED is ACCEL_FAULT and never falls back;
UNSUPPORTED alone falls back to the software path. That the completion reads a latched answer, and that a sequencer's turn
without one changes nothing, is the model's reading (log entry 8). -/
def Obligations.VerifyFollowsTheResponse : Prop :=
  ∀ (s : State) (op : Instr) (p : Payload),
    (∀ b, s.seq = .waitAccel op p (some (.valid b)) →
      ∃ t, exec .verify s = .next t ∧ CompletedWith s t .noError true false ∧ TableUntouched s t ∧
        ResultsAre t (if b then 1 else 0) 0 0) ∧
    (s.seq = .waitAccel op p (some .reserved) → ∃ t, exec .verify s = .next t ∧ ErrorCompletion s t .accelFault) ∧
    (s.seq = .waitAccel op p (some .unsupported) →
      ∃ t, exec .verify s = .next t ∧
        CompletedWith s t .noError false
          (verifySW (argNat s 0) (argNat s 1) (argNat s 2) (argNat s 3) (argNat s 4)).degen ∧
        TableWritten t (build (argNat s 3) (argNat s 4)) ∧
        ResultsAre t
          (if (verifySW (argNat s 0) (argNat s 1) (argNat s 2) (argNat s 3) (argNat s 4)).valid then 1 else 0) 0 0) ∧
    (s.seq = .waitAccel op p none → exec .verify s = .next s)

/-- Rule R215: VERIFY_STRICT's outcomes, from acceptance and from each response. Malformed input is judged first; an absent
accelerator or UNSUPPORTED is ACCEL_UNAVAILABLE; the software path never runs, the table is never written, DEGEN is 0, and
ACCEL_EN has no effect. The latched answer that a completion reads and the payload's home in the sequencer are the model's
(log entries 8 and 9). -/
def Obligations.VerifyStrictOutcomes : Prop :=
  encode .verifyStrict = 0x0000000B ∧ errCode .accelUnavailable = 6 ∧ errCode .accelFault = 7 ∧
  (∀ (s : State) (op : Op) (accelEn : Bool), s.seq = .run op accelEn →
    (wellFormedInput s = false →
      ∃ t, exec .verifyStrict s = .next t ∧ CompletedWith s t .noError false false ∧ ResultsAre t 0 0 0 ∧
        TableUntouched s t) ∧
    (wellFormedInput s = true →
      ∃ t, exec .verifyStrict s = .next t ∧
        (if Config.accelPresent then
          t = { s with seq := .waitAccel .verifyStrict (requestPayload s) none, accelPending := true }
        else ErrorCompletion s t .accelUnavailable))) ∧
  ∀ (s : State) (op : Instr) (p : Payload),
    (∀ b, s.seq = .waitAccel op p (some (.valid b)) →
      ∃ t, exec .verifyStrict s = .next t ∧ CompletedWith s t .noError true false ∧ TableUntouched s t ∧
        ResultsAre t (if b then 1 else 0) 0 0) ∧
    (s.seq = .waitAccel op p (some .unsupported) →
      ∃ t, exec .verifyStrict s = .next t ∧ ErrorCompletion s t .accelUnavailable) ∧
    (s.seq = .waitAccel op p (some .reserved) →
      ∃ t, exec .verifyStrict s = .next t ∧ ErrorCompletion s t .accelFault)

/-- Rules R213, R194: when VERIFY's software path, from acceptance or as the fallback on UNSUPPORTED, ends with DEGEN = 0,
RES0 = 1 exactly when the group's u1·G + u2·Q has an x-coordinate that is r mod N, where O counts as x = 0: ECDSA verification
with the hash value h. The spec marks it derived from rules R210 and R194; the latched answer is the model's (log entry 8). -/
def Obligations.VerifyIsEcdsaVerification : Prop :=
  ∀ [Fact (Nat.Prime Curve.P)] (s t : State),
    ((∃ op accelEn, s.seq = .run op accelEn ∧ (accelEn = false ∨ Config.accelPresent = false)) ∨
      ∃ op p, s.seq = .waitAccel op p (some .unsupported)) →
    wellFormedInput s = true →
    exec .verify s = .next t → t.status.degen = false →
    ∃ (hG : p256.Nonsingular (Curve.GX : ZMod Curve.P) (Curve.GY : ZMod Curve.P))
      (hQ : p256.Nonsingular (argNat s 3 : ZMod Curve.P) (argNat s 4 : ZMod Curve.P)) (w : Nat) (a : Affine),
      argNat s 2 * w % Curve.N = 1 ∧ a.x < Curve.P ∧ a.y < Curve.P ∧
      IsPoint a ((argNat s 0 * w % Curve.N) • WeierstrassCurve.Affine.Point.some _ _ hG +
        (argNat s 1 * w % Curve.N) • WeierstrassCurve.Affine.Point.some _ _ hQ) ∧
      (t.res[0] = 1 ↔ a.x % Curve.N = argNat s 1)

/-- Rules R230, R231: RECOVER answers the sentinel with ERR = 0 and the table untouched in step 1's and step 4's cases: an
improper signature, v above 1, or an r whose r³ + A·r + B is not a square mod P. -/
def Obligations.RecoverSentinelCases : Prop :=
  ∀ s : State, (properSig (argNat s 2) (argNat s 3) = false ∨ 1 < argNat s 1 ∨
      ¬IsSquare ((argNat s 2 : ZMod Curve.P) ^ 3 + Curve.A * argNat s 2 + Curve.B)) →
    ∃ t, exec .recover s = .next t ∧ CompletedWith s t .noError false false ∧ ResultsAre t 0 0 0 ∧ TableUntouched s t

/-- Rule R230: RECOVER's own effect. On a proper signature with v ≤ 1 and an r that is some curve point's x-coordinate, it
takes the point (r, y) whose y has v's parity, builds its table, and writes u1·G + u2·(r, y) for w the inverse of r mod N, u1
= (N − h mod N)·w mod N and u2 = s·w mod N. -/
def Obligations.RecoverMultipliesTheEphemeralPoint : Prop :=
  ∀ s : State, properSig (argNat s 2) (argNat s 3) = true → argNat s 1 ≤ 1 →
    IsSquare ((argNat s 2 : ZMod Curve.P) ^ 3 + Curve.A * argNat s 2 + Curve.B) →
    ∃ (t : State) (y w : Nat), 0 < y ∧ y < Curve.P ∧ y % 2 = argNat s 1 ∧ validKey (argNat s 2) y = true ∧
      w < Curve.N ∧ argNat s 2 * w % Curve.N = 1 ∧
      let T := build (argNat s 2) y
      let u1 := (Curve.N - argNat s 0 % Curve.N) * w % Curve.N
      let u2 := argNat s 3 * w % Curve.N
      exec .recover s = .next t ∧
        CompletedWith s t .noError false (buildDegenerate (argNat s 2) y || multiplyDegenerate T u1 u2) ∧
        TableWritten t T ∧ ResultsAre t (resOf (multiply T u1 u2).x) (resOf (multiply T u1 u2).y) 0

/-- Rules R67, R220: the payload is 160 bytes, h, r, s, qx, qy in that order, each 32 bytes with the most significant first. -/
def Obligations.PayloadIsBigEndian : Prop :=
  (∀ v : U256, (bytesBE v).length = 32 ∧ (bytesBE v).foldl (fun n b => 256 * n + b.toNat) 0 = v.toNat) ∧
  ∀ p : Payload, (payloadBytes p).length = 160 ∧
    payloadBytes p = bytesBE p.h ++ bytesBE p.r ++ bytesBE p.s ++ bytesBE p.qx ++ bytesBE p.qy

/-- Rules R43, R220: a response with accel_pending = 0 changes nothing, and one with a request outstanding clears
accel_pending, is latched for the completion that follows, and changes nothing else of the block. The latched answer and the
draw counter are the model's (log entries 5 and 8). -/
def Obligations.ResponseEvent : Prop :=
  ∀ (s : State) (code : BitVec 2), nextTurn s = .accelerator code →
    (s.accelPending = false → step s = .next (popTurn s)) ∧
    (∀ op p, s.accelPending = true → s.seq = .waitAccel op p none →
      step s = .next
        { popTurn s with
          accelPending := false
          draws := s.draws + 1
          seq := .waitAccel op p (some
            (match code with
            | 0b00 => .unsupported
            | 0b01 => .valid false
            | 0b10 => .valid true
            | 0b11 => .reserved)) })

/-! ## Errors, flags and frames -/

/-- Rule R246: an error completion of any command, from a state of the invariant in which it runs: zero results, the code,
DEGEN and ACCEL_USED 0, DONE and DONE_IRQ 1, IDLE; the table, TABLE_VALID, ARG, CMD, CTRL and BUSY_WRITE unchanged. -/
def Obligations.EveryErrorIsPrecise : Prop :=
  ∀ (i : Instr) (s t : State), HandshakeInv s → s.seq ≠ .idle → exec i s = .next t → t.status.err ≠ .noError →
    ErrorCompletion s t t.status.err

/-- Rule R243: the errors each command can end with; no other is possible, for a command or for an ILLEGAL word. The spec
marks it derived from the command rules. -/
def Obligations.ErrorsPossiblePerCommand : Prop :=
  (∀ (i : Instr) (s t : State), HandshakeInv s → s.seq ≠ .idle → exec i s = .next t →
    t.status.err ∈ (match i with
      | .inv => [ErrCode.noError, .notInvertible, .badModulus]
      | .modexp => [.noError, .badModulus]
      | .validateKey => [.noError]
      | .checkSig => [.noError]
      | .jadd => [.noError, .range]
      | .jdbl => [.noError, .range]
      | .toaffine => [.noError, .range]
      | .buildTable => [.noError, .range]
      | .shamir => [.noError, .noTable]
      | .verify => [.noError, .accelFault]
      | .verifyStrict => [.noError, .accelUnavailable, .accelFault]
      | .recover => [.noError])) ∧
  ∀ s t : State, (∃ accelEn, s.seq = .run .illegal accelEn) → sequencerTurn s = .next t → t.status.err = .illegalCmd

/-- The frame of every command, in every state: whatever its step does, ARG, CMD, CTRL, BUSY_WRITE, the host, the schedule
and the draw counter are unchanged; only BUILD_TABLE, VERIFY and RECOVER can change the table or TABLE_VALID; only VERIFY and
VERIFY_STRICT can change accel_pending. The schedule and the draw counter are the model's own (log entries 3 and 5). -/
def Obligations.EveryCommandsFrame : Prop :=
  ∀ (i : Instr) (s t : State), exec i s = .next t →
    t.args = s.args ∧ t.cmd = s.cmd ∧ t.ctrl = s.ctrl ∧ t.status.busyWrite = s.status.busyWrite ∧ t.host = s.host ∧
    t.turns = s.turns ∧ t.draws = s.draws ∧
    (i ≠ .buildTable → i ≠ .verify → i ≠ .recover → TableUntouched s t) ∧
    (i ≠ .verify → i ≠ .verifyStrict → t.accelPending = s.accelPending) ∧
    (s.status.tableValid = true → t.status.tableValid = true)

/-- Rules R30, R250: DONE_IRQ, once set, is cleared only by a reset or by the host's write of 1 to IRQ_STATUS bit 0; every
completion sets it, even while IRQ_EN = 0; and the output is IRQ_EN AND DONE_IRQ. -/
def Obligations.DoneIrqClearedOnlyByTheHost : Prop :=
  (∀ s t : State, step s = .next t → s.doneIrq = true → t.doneIrq = false →
    BlockIsReset t ∨ (nextTurn s = .host ∧
      ∃ e, s.host.program[s.host.pos]? = some (.write 4 0x014 e) ∧ evalExpr s.host.vars e % 2 = 1)) ∧
  (∀ (i : Instr) (s t : State), exec i s = .next t → t.seq = .idle → s.seq ≠ .idle → t.doneIrq = true) ∧
  ∀ s : State, irqOut s = true ↔ s.ctrl.irqEn = true ∧ s.doneIrq = true

/-- Rules R27, R285: a CTRL write with SOFT_RESET = 0 takes effect at once, in any sequencer state, and changes no other
state, so the running command keeps the ACCEL_EN sampled at its acceptance; SOFT_RESET reads 0. -/
def Obligations.CtrlWriteTakesEffectAtOnce : Prop :=
  ∀ (s : State) (v : Word), v.getLsbD 0 = false →
    ∃ t, memWrite 4 0x008 v s = .ok t ∧ t.ctrl.accelEn = v.getLsbD 1 ∧ t.ctrl.irqEn = v.getLsbD 2 ∧ t.seq = s.seq ∧
      { t with ctrl := s.ctrl } = s ∧ memRead 4 0x008 t = .ok (v &&& 0x6) ∧ irqOut t = (v.getLsbD 2 && s.doneIrq)

/-- Rule R287: every command but VERIFY and VERIFY_STRICT is a function of the operands, the table and TABLE_VALID: states
that agree on them give the same results, error, DEGEN, ACCEL_USED and table, whatever else they hold; and VERIFY with
ACCEL_EN sampled 0, or with no accelerator, answers as a function of its operands. The spec marks it derived from rules R42
and R220. -/
def Obligations.CommandsDependOnlyOnOperandsAndTable : Prop :=
  (∀ (i : Instr) (s s' t t' : State), i ≠ .verify → i ≠ .verifyStrict → s.args = s'.args → s.table = s'.table →
    s.status.tableValid = s'.status.tableValid → exec i s = .next t → exec i s' = .next t' →
    t.res = t'.res ∧ t.status.err = t'.status.err ∧ t.status.degen = t'.status.degen ∧
      t.status.accelUsed = t'.status.accelUsed ∧ t.table = t'.table ∧ t.status.tableValid = t'.status.tableValid) ∧
  ∀ (s s' t t' : State) (op op' : Op) (accelEn accelEn' : Bool), s.seq = .run op accelEn → s'.seq = .run op' accelEn' →
    ((accelEn = false ∧ accelEn' = false) ∨ Config.accelPresent = false) → s.args = s'.args →
    exec .verify s = .next t → exec .verify s' = .next t' →
    t.res = t'.res ∧ t.status.err = t'.status.err ∧ t.status.degen = t'.status.degen ∧
      t.status.accelUsed = t'.status.accelUsed

/-! ## Whole-machine rules -/

/-- The block's invariant (rules R29, R33, R34, R35, R40, R43, R220, R221) holds at reset, and so does the host's: its empty
program and empty variables at reset are the model's choice (log entry 2). -/
def Obligations.BlockInvHoldsAtReset : Prop := BlockInv State.reset ∧ HostInv State.reset

/-- Rules R29, R40: every step keeps the handshake invariant by itself: BUSY is 1 exactly outside IDLE, BUSY and DONE are
never both 1, and ERR, ACCEL_USED and DEGEN are 0 while BUSY = 1. -/
def Obligations.EveryStepKeepsTheHandshake : Prop :=
  ∀ s t : State, HandshakeInv s → step s = .next t → HandshakeInv t

/-- Every step keeps the block's whole invariant: the handshake, the table in range with TABLE[0] the identity, and the
accelerator request validated and equal to the operands. The latched answer in it is the model's (log entry 8). -/
def Obligations.EveryStepKeepsTheBlockInvariant : Prop :=
  ∀ s t : State, BlockInv s → step s = .next t → BlockInv t

/-- Rule R34: TABLE[0] is (0, 0, 0) at reset and after every step from a state in which it is. The spec marks it derived from
rules R33 and R270. -/
def Obligations.TableEntryZeroIsAlwaysTheIdentity : Prop :=
  State.reset.table[0] = { x := 0, y := 0, z := 0 } ∧
  ∀ s t : State, s.table[0] = { x := 0, y := 0, z := 0 } → step s = .next t → t.table[0] = { x := 0, y := 0, z := 0 }

/-- Rules R98, R241: from every state whose host has a well-formed program and canonical variables, the step answers a next
state, of the same kind: no bus error and no refusal, for ever. The host's place in the state is the model's choice (log
entry 2). -/
def Obligations.WellFormedHostNeverFaults : Prop :=
  ∀ s : State, HostInv s → ∃ t, step s = .next t ∧ HostInv t

/-- Rules R21, R73: while a command runs no step changes an ARG register, but for a reset. -/
def Obligations.OperandsAreStableWhileBusy : Prop :=
  ∀ s t : State, s.status.busy = true → step s = .next t → t.args = s.args ∨ BlockIsReset t

/-- Rules R33, R35, R286: a step changes the table only by a reset or as the sequencer's turn on BUILD_TABLE, VERIFY or
RECOVER, which leaves TABLE_VALID 1; and TABLE_VALID, once 1, stays 1 until a reset. -/
def Obligations.OnlyThreeCommandsWriteTheTable : Prop :=
  (∀ s t : State, step s = .next t → t.table ≠ s.table →
    BlockIsReset t ∨ (t.status.tableValid = true ∧ nextTurn s = .sequencer ∧
      (runningOp s = some (.command .buildTable) ∨ runningOp s = some (.command .verify) ∨
        runningOp s = some (.command .recover)))) ∧
  ∀ s t : State, step s = .next t → s.status.tableValid = true → t.status.tableValid = true ∨ BlockIsReset t

/-- Rules R281, R290: from every state of the invariant in which a command runs, with no scheduled event, at most three steps
(a request, its response, the completion) end in IDLE with DONE = 1, whatever the accelerator's draw; the default turn that
gives it is the model's fairness (log entry 4). -/
def Obligations.EveryCommandCompletes : Prop :=
  ∀ s : State, BlockInv s → s.status.busy = true → s.turns = [] →
    ∃ k t, k ≤ 3 ∧ core.run k s = .next t ∧ t.seq = .idle ∧ t.status.done = true ∧ t.status.busy = false

/-- Rules R61, R63, R99: `wr256 ARGi, V` is eight host turns that, from a state with BUSY = 0, leave ARGi = V and change
nothing else of the block. The schedule is the model's own (log entry 3). -/
def Obligations.WriteOf256BitsSetsTheOperand : Prop :=
  ∀ (s : State) (i : Fin 6) (v : U256) (pre post : List HostLine) (later : List Turn),
    s.host.program = pre ++ wr256 i.val (.lit v.toNat) ++ post → s.host.pos = pre.length → s.status.busy = false →
    s.turns = List.replicate 8 .host ++ later →
    core.run 8 s = .next
      { s with args := s.args.set i v, host := { s.host with pos := s.host.pos + 8 }, turns := later }
end

