-- ==== Sys2Proof/Laws/Field.lean ====
section
/-! SUPPORT. The field primitives and the exponentiation engine: ranges, and modPow equals the exact power's remainder
(rules R11, R112, R113). -/

namespace Sys2Proof.Laws

open Sys2Proof.Curve Sys2Proof.Machine

theorem P_pos : 0 < P := by decide
theorem N_pos : 0 < N := by decide
theorem P_lt_two_pow : P < 2 ^ 256 := by decide
theorem N_lt_P : N < P := by decide

theorem addP_lt (a b : Nat) : addP a b < P := Nat.mod_lt _ P_pos
theorem subP_lt (a b : Nat) : subP a b < P := Nat.mod_lt _ P_pos
theorem mulP_lt (a b : Nat) : mulP a b < P := Nat.mod_lt _ P_pos
theorem mulN_lt (a b : Nat) : mulN a b < N := Nat.mod_lt _ N_pos

/-- In the field, addP is the sum. -/
theorem addP_cast (a b : Nat) : (addP a b : ZMod P) = a + b := by
  simp [addP, ZMod.natCast_mod]

/-- In the field, mulP is the product. -/
theorem mulP_cast (a b : Nat) : (mulP a b : ZMod P) = a * b := by
  simp [mulP, ZMod.natCast_mod]

/-- In the field, subP of a reduced subtrahend is the difference. -/
theorem subP_cast (a : Nat) {b : Nat} (hb : b ≤ P) : (subP a b : ZMod P) = a - b := by
  rw [subP, ZMod.natCast_mod, Nat.add_sub_assoc hb, Nat.cast_add, Nat.cast_sub hb]
  simp [sub_eq_add_neg]

/-- A natural below P is determined by its class in the field. -/
theorem eq_of_cast_eq {a b : Nat} (ha : a < P) (hb : b < P) (h : (a : ZMod P) = b) : a = b := by
  have := (ZMod.natCast_eq_natCast_iff' a b P).mp h
  rwa [Nat.mod_eq_of_lt ha, Nat.mod_eq_of_lt hb] at this

/-- The square-and-multiply loop keeps `acc · b ^ (low n bits of e)` modulo m. -/
theorem modPowLoop_modEq (m n b e acc : Nat) :
    modPowLoop m n b e acc ≡ acc * b ^ (e % 2 ^ n) [MOD m] := by
  induction n generalizing b e acc with
  | zero => simp [modPowLoop, Nat.mod_one, Nat.ModEq.refl]
  | succ n ih =>
    have split : e % 2 ^ (n + 1) = e % 2 + 2 * (e / 2 % 2 ^ n) := by
      rw [pow_succ', Nat.mod_mul]
    have sq : (b * b % m) ^ (e / 2 % 2 ^ n) ≡ b ^ (2 * (e / 2 % 2 ^ n)) [MOD m] := by
      rw [pow_mul, sq]
      exact (Nat.mod_modEq _ _).pow _
    rw [modPowLoop, split, pow_add]
    refine (ih ..).trans ?_
    rcases Nat.mod_two_eq_zero_or_one e with h | h
    · simp only [h, zero_ne_one, if_false, pow_zero, one_mul]
      exact Nat.ModEq.mul_left _ sq
    · simp only [h, if_true, pow_one, ← mul_assoc]
      exact (Nat.mod_modEq _ _).mul sq

/-- The loop stays below a nonzero modulus. -/
theorem modPowLoop_lt {m : Nat} (hm : 0 < m) (n b e : Nat) {acc : Nat} (ha : acc < m) :
    modPowLoop m n b e acc < m := by
  induction n generalizing b e acc with
  | zero => exact ha
  | succ n ih =>
    rw [modPowLoop]
    split
    · exact ih _ _ (Nat.mod_lt _ hm)
    · exact ih _ _ ha

/-- modPow is the exact integer power's remainder (rule R113), for every 256-bit exponent and nonzero modulus. -/
theorem modPow_eq {m e : Nat} (hm : 0 < m) (he : e < 2 ^ 256) (b : Nat) : modPow b e m = b ^ e % m := by
  have lt : modPow b e m < m := modPowLoop_lt hm _ _ _ (Nat.mod_lt _ hm)
  have eq : modPow b e m ≡ b ^ e [MOD m] := by
    refine (modPowLoop_modEq ..).trans ?_
    rw [Nat.mod_eq_of_lt he]
    simpa using (Nat.mod_modEq 1 m).mul ((Nat.mod_modEq b m).pow e)
  exact (Nat.mod_eq_of_lt lt).symm.trans eq

theorem modPow_lt {m : Nat} (hm : 0 < m) (b e : Nat) : modPow b e m < m :=
  modPowLoop_lt hm _ _ _ (Nat.mod_lt _ hm)

/-- inv's value is the Fermat power's remainder (rule R112). -/
theorem invValue_eq {m : Nat} (hm : 0 < m) (hlt : m < 2 ^ 256) (a : Nat) : invValue a m = a ^ (m - 2) % m :=
  modPow_eq hm (by omega) a

theorem invValue_lt {m : Nat} (hm : 0 < m) (a : Nat) : invValue a m < m := modPow_lt hm _ _

/-- What inv can answer (rules R112, R244). -/
theorem inv_cases (a m : Nat) :
    (m = 0 ∧ inv a m = .error .badModulus) ∨
    (m ≠ 0 ∧ a % m = 0 ∧ inv a m = .error .notInvertible) ∨
    (m ≠ 0 ∧ a % m ≠ 0 ∧ inv a m = .ok (invValue a m)) := by
  unfold inv
  split_ifs <;> simp_all

/-- What modpow can answer (rule R113). -/
theorem modpow_cases (b e m : Nat) :
    (m = 0 ∧ modpow b e m = .error .badModulus) ∨ (m ≠ 0 ∧ modpow b e m = .ok (modPow b e m)) := by
  unfold modpow
  split_ifs <;> simp_all

end Sys2Proof.Laws
end

