-- ==== Sys2Proof/Laws/Primes.lean ====
section
/-! SUPPORT. P and N are prime (rule R32), by Lucas certificates: each prime's own certificate, the leaves by norm_num. -/

namespace Sys2Proof.Laws

-- One proof at a time, to bound the memory of a build.
set_option Elab.async false

open Sys2Proof.Curve Sys2Proof.Machine

/-- A power in ZMod p is 1 exactly when modPow answers 1. -/
theorem pow_eq_one_iff {p e : Nat} (h1 : 1 < p) (he : e < 2 ^ 256) (a : Nat) :
    (a : ZMod p) ^ e = 1 ↔ modPow a e p = 1 := by
  rw [modPow_eq (by omega) he, ← Nat.cast_pow, ← Nat.cast_one (R := ZMod p), ZMod.natCast_eq_natCast_iff',
    Nat.mod_eq_of_lt h1]

/-- Lucas's criterion with the factors of p - 1 listed, checked by modPow. -/
theorem prime_of_factors {p : Nat} (a : Nat) (fs : List Nat) (h1 : 1 < p) (hp : p < 2 ^ 256) (hprod : fs.prod = p - 1)
    (hf : ∀ q ∈ fs, q.Prime) (hone : modPow a (p - 1) p = 1) (hne : ∀ q ∈ fs, modPow a ((p - 1) / q) p ≠ 1) :
    p.Prime := by
  refine lucas_primality p a ((pow_eq_one_iff h1 (by omega) a).2 hone) fun q hq hdvd => ?_
  rw [← hprod] at hdvd
  obtain ⟨f, hmem, hqf⟩ := (Prime.dvd_prod_iff hq.prime).1 hdvd
  rw [(Nat.prime_dvd_prime_iff_eq hq (hf f hmem)).1 hqf]
  exact fun h => hne f hmem
    ((pow_eq_one_iff h1 ((Nat.div_le_self _ _).trans_lt (by omega)) a).1 h)

theorem prime_of_size_7_ending_417 : Nat.Prime 6700417 :=
  prime_of_factors 5 [2, 2, 2, 2, 2, 2, 2, 3, 17449] (by decide) (by decide) (by decide)
    (List.forall_mem_cons.2 ⟨by norm_num, List.forall_mem_cons.2 ⟨by norm_num, List.forall_mem_cons.2 ⟨by norm_num, List.forall_mem_cons.2 ⟨by norm_num, List.forall_mem_cons.2 ⟨by norm_num, List.forall_mem_cons.2 ⟨by norm_num, List.forall_mem_cons.2 ⟨by norm_num, List.forall_mem_cons.2 ⟨by norm_num, List.forall_mem_cons.2 ⟨by norm_num, fun _ h => absurd h List.not_mem_nil⟩⟩⟩⟩⟩⟩⟩⟩⟩)
    (by decide +kernel) (by decide +kernel)

theorem prime_of_size_11_ending_3611 : Nat.Prime 66417393611 :=
  prime_of_factors 6 [2, 5, 53, 173, 197, 3677] (by decide) (by decide) (by decide)
    (List.forall_mem_cons.2 ⟨by norm_num, List.forall_mem_cons.2 ⟨by norm_num, List.forall_mem_cons.2 ⟨by norm_num, List.forall_mem_cons.2 ⟨by norm_num, List.forall_mem_cons.2 ⟨by norm_num, List.forall_mem_cons.2 ⟨by norm_num, fun _ h => absurd h List.not_mem_nil⟩⟩⟩⟩⟩⟩)
    (by decide +kernel) (by decide +kernel)

theorem prime_of_size_14_ending_3871 : Nat.Prime 11290956913871 :=
  prime_of_factors 13 [2, 5, 17, 66417393611] (by decide) (by decide) (by decide)
    (List.forall_mem_cons.2 ⟨by norm_num, List.forall_mem_cons.2 ⟨by norm_num, List.forall_mem_cons.2 ⟨by norm_num, List.forall_mem_cons.2 ⟨prime_of_size_11_ending_3611, fun _ h => absurd h List.not_mem_nil⟩⟩⟩⟩)
    (by decide +kernel) (by decide +kernel)

theorem prime_of_size_17_ending_4543 : Nat.Prime 46076956964474543 :=
  prime_of_factors 5 [2, 23, 18169, 78283, 704251] (by decide) (by decide) (by decide)
    (List.forall_mem_cons.2 ⟨by norm_num, List.forall_mem_cons.2 ⟨by norm_num, List.forall_mem_cons.2 ⟨by norm_num, List.forall_mem_cons.2 ⟨by norm_num, List.forall_mem_cons.2 ⟨by norm_num, fun _ h => absurd h List.not_mem_nil⟩⟩⟩⟩⟩)
    (by decide +kernel) (by decide +kernel)

theorem prime_of_size_9_ending_1199 : Nat.Prime 204061199 :=
  prime_of_factors 11 [2, 11, 23, 107, 3769] (by decide) (by decide) (by decide)
    (List.forall_mem_cons.2 ⟨by norm_num, List.forall_mem_cons.2 ⟨by norm_num, List.forall_mem_cons.2 ⟨by norm_num, List.forall_mem_cons.2 ⟨by norm_num, List.forall_mem_cons.2 ⟨by norm_num, fun _ h => absurd h List.not_mem_nil⟩⟩⟩⟩⟩)
    (by decide +kernel) (by decide +kernel)

theorem prime_of_size_11_ending_1433 : Nat.Prime 34282281433 :=
  prime_of_factors 17 [2, 2, 2, 3, 7, 204061199] (by decide) (by decide) (by decide)
    (List.forall_mem_cons.2 ⟨by norm_num, List.forall_mem_cons.2 ⟨by norm_num, List.forall_mem_cons.2 ⟨by norm_num, List.forall_mem_cons.2 ⟨by norm_num, List.forall_mem_cons.2 ⟨by norm_num, List.forall_mem_cons.2 ⟨prime_of_size_9_ending_1199, fun _ h => absurd h List.not_mem_nil⟩⟩⟩⟩⟩⟩)
    (by decide +kernel) (by decide +kernel)

theorem prime_of_size_45_ending_5303 : Nat.Prime 774023187263532362759620327192479577272145303 :=
  prime_of_factors 3 [2, 3, 3, 2411, 34282281433, 11290956913871, 46076956964474543] (by decide) (by decide) (by decide)
    (List.forall_mem_cons.2 ⟨by norm_num, List.forall_mem_cons.2 ⟨by norm_num, List.forall_mem_cons.2 ⟨by norm_num, List.forall_mem_cons.2 ⟨by norm_num, List.forall_mem_cons.2 ⟨prime_of_size_11_ending_1433, List.forall_mem_cons.2 ⟨prime_of_size_14_ending_3871, List.forall_mem_cons.2 ⟨prime_of_size_17_ending_4543, fun _ h => absurd h List.not_mem_nil⟩⟩⟩⟩⟩⟩⟩)
    (by decide +kernel) (by decide +kernel)

theorem prime_of_size_48_ending_7241 : Nat.Prime 835945042244614951780389953367877943453916927241 :=
  prime_of_factors 11 [2, 2, 2, 3, 3, 3, 5, 774023187263532362759620327192479577272145303] (by decide) (by decide) (by decide)
    (List.forall_mem_cons.2 ⟨by norm_num, List.forall_mem_cons.2 ⟨by norm_num, List.forall_mem_cons.2 ⟨by norm_num, List.forall_mem_cons.2 ⟨by norm_num, List.forall_mem_cons.2 ⟨by norm_num, List.forall_mem_cons.2 ⟨by norm_num, List.forall_mem_cons.2 ⟨by norm_num, List.forall_mem_cons.2 ⟨prime_of_size_45_ending_5303, fun _ h => absurd h List.not_mem_nil⟩⟩⟩⟩⟩⟩⟩⟩)
    (by decide +kernel) (by decide +kernel)

/-- The field order P is prime (rule R32). -/
theorem P_prime : Nat.Prime P :=
  prime_of_factors 6 [2, 3, 5, 5, 17, 257, 641, 1531, 65537, 490463, 6700417, 835945042244614951780389953367877943453916927241] (by decide) (by decide) (by decide)
    (List.forall_mem_cons.2 ⟨by norm_num, List.forall_mem_cons.2 ⟨by norm_num, List.forall_mem_cons.2 ⟨by norm_num, List.forall_mem_cons.2 ⟨by norm_num, List.forall_mem_cons.2 ⟨by norm_num, List.forall_mem_cons.2 ⟨by norm_num, List.forall_mem_cons.2 ⟨by norm_num, List.forall_mem_cons.2 ⟨by norm_num, List.forall_mem_cons.2 ⟨by norm_num, List.forall_mem_cons.2 ⟨by norm_num, List.forall_mem_cons.2 ⟨prime_of_size_7_ending_417, List.forall_mem_cons.2 ⟨prime_of_size_48_ending_7241, fun _ h => absurd h List.not_mem_nil⟩⟩⟩⟩⟩⟩⟩⟩⟩⟩⟩⟩)
    (by decide +kernel) (by decide +kernel)

theorem prime_of_size_13_ending_9319 : Nat.Prime 1002328039319 :=
  prime_of_factors 19 [2, 126241, 3969899] (by decide) (by decide) (by decide)
    (List.forall_mem_cons.2 ⟨by norm_num, List.forall_mem_cons.2 ⟨by norm_num, List.forall_mem_cons.2 ⟨by norm_num, fun _ h => absurd h List.not_mem_nil⟩⟩⟩)
    (by decide +kernel) (by decide +kernel)

theorem prime_of_size_9_ending_9911 : Nat.Prime 191039911 :=
  prime_of_factors 3 [2, 3, 5, 41, 155317] (by decide) (by decide) (by decide)
    (List.forall_mem_cons.2 ⟨by norm_num, List.forall_mem_cons.2 ⟨by norm_num, List.forall_mem_cons.2 ⟨by norm_num, List.forall_mem_cons.2 ⟨by norm_num, List.forall_mem_cons.2 ⟨by norm_num, fun _ h => absurd h List.not_mem_nil⟩⟩⟩⟩⟩)
    (by decide +kernel) (by decide +kernel)

theorem prime_of_size_18_ending_5979 : Nat.Prime 208150935158385979 :=
  prime_of_factors 2 [2, 3, 11, 43, 127, 3023, 191039911] (by decide) (by decide) (by decide)
    (List.forall_mem_cons.2 ⟨by norm_num, List.forall_mem_cons.2 ⟨by norm_num, List.forall_mem_cons.2 ⟨by norm_num, List.forall_mem_cons.2 ⟨by norm_num, List.forall_mem_cons.2 ⟨by norm_num, List.forall_mem_cons.2 ⟨by norm_num, List.forall_mem_cons.2 ⟨prime_of_size_9_ending_9911, fun _ h => absurd h List.not_mem_nil⟩⟩⟩⟩⟩⟩⟩)
    (by decide +kernel) (by decide +kernel)

theorem prime_of_size_28_ending_3953 : Nat.Prime 2624747550333869278416773953 :=
  prime_of_factors 7 [2, 2, 2, 2, 2, 2, 3, 3, 1297, 16879, 208150935158385979] (by decide) (by decide) (by decide)
    (List.forall_mem_cons.2 ⟨by norm_num, List.forall_mem_cons.2 ⟨by norm_num, List.forall_mem_cons.2 ⟨by norm_num, List.forall_mem_cons.2 ⟨by norm_num, List.forall_mem_cons.2 ⟨by norm_num, List.forall_mem_cons.2 ⟨by norm_num, List.forall_mem_cons.2 ⟨by norm_num, List.forall_mem_cons.2 ⟨by norm_num, List.forall_mem_cons.2 ⟨by norm_num, List.forall_mem_cons.2 ⟨by norm_num, List.forall_mem_cons.2 ⟨prime_of_size_18_ending_5979, fun _ h => absurd h List.not_mem_nil⟩⟩⟩⟩⟩⟩⟩⟩⟩⟩⟩)
    (by decide +kernel) (by decide +kernel)

theorem prime_of_size_9_ending_5691 : Nat.Prime 311245691 :=
  prime_of_factors 2 [2, 5, 7, 17, 29, 29, 311] (by decide) (by decide) (by decide)
    (List.forall_mem_cons.2 ⟨by norm_num, List.forall_mem_cons.2 ⟨by norm_num, List.forall_mem_cons.2 ⟨by norm_num, List.forall_mem_cons.2 ⟨by norm_num, List.forall_mem_cons.2 ⟨by norm_num, List.forall_mem_cons.2 ⟨by norm_num, List.forall_mem_cons.2 ⟨by norm_num, fun _ h => absurd h List.not_mem_nil⟩⟩⟩⟩⟩⟩⟩)
    (by decide +kernel) (by decide +kernel)

theorem prime_of_size_9_ending_1383 : Nat.Prime 622491383 :=
  prime_of_factors 5 [2, 311245691] (by decide) (by decide) (by decide)
    (List.forall_mem_cons.2 ⟨by norm_num, List.forall_mem_cons.2 ⟨prime_of_size_9_ending_5691, fun _ h => absurd h List.not_mem_nil⟩⟩)
    (by decide +kernel) (by decide +kernel)

theorem prime_of_size_7_ending_987 : Nat.Prime 9350987 :=
  prime_of_factors 2 [2, 17, 229, 1201] (by decide) (by decide) (by decide)
    (List.forall_mem_cons.2 ⟨by norm_num, List.forall_mem_cons.2 ⟨by norm_num, List.forall_mem_cons.2 ⟨by norm_num, List.forall_mem_cons.2 ⟨by norm_num, fun _ h => absurd h List.not_mem_nil⟩⟩⟩⟩)
    (by decide +kernel) (by decide +kernel)

theorem prime_of_size_9_ending_9741 : Nat.Prime 187019741 :=
  prime_of_factors 2 [2, 2, 5, 9350987] (by decide) (by decide) (by decide)
    (List.forall_mem_cons.2 ⟨by norm_num, List.forall_mem_cons.2 ⟨by norm_num, List.forall_mem_cons.2 ⟨by norm_num, List.forall_mem_cons.2 ⟨prime_of_size_7_ending_987, fun _ h => absurd h List.not_mem_nil⟩⟩⟩⟩)
    (by decide +kernel) (by decide +kernel)

/-- The group order N is prime (rule R32). -/
theorem N_prime : Nat.Prime N :=
  prime_of_factors 7 [2, 2, 2, 2, 3, 71, 131, 373, 3407, 17449, 38189, 187019741, 622491383, 1002328039319, 2624747550333869278416773953] (by decide) (by decide) (by decide)
    (List.forall_mem_cons.2 ⟨by norm_num, List.forall_mem_cons.2 ⟨by norm_num, List.forall_mem_cons.2 ⟨by norm_num, List.forall_mem_cons.2 ⟨by norm_num, List.forall_mem_cons.2 ⟨by norm_num, List.forall_mem_cons.2 ⟨by norm_num, List.forall_mem_cons.2 ⟨by norm_num, List.forall_mem_cons.2 ⟨by norm_num, List.forall_mem_cons.2 ⟨by norm_num, List.forall_mem_cons.2 ⟨by norm_num, List.forall_mem_cons.2 ⟨by norm_num, List.forall_mem_cons.2 ⟨prime_of_size_9_ending_9741, List.forall_mem_cons.2 ⟨prime_of_size_9_ending_1383, List.forall_mem_cons.2 ⟨prime_of_size_13_ending_9319, List.forall_mem_cons.2 ⟨prime_of_size_28_ending_3953, fun _ h => absurd h List.not_mem_nil⟩⟩⟩⟩⟩⟩⟩⟩⟩⟩⟩⟩⟩⟩⟩)
    (by decide +kernel) (by decide +kernel)

end Sys2Proof.Laws
end

