-- ==== Sys2Proof/Laws/Curve.lean ====
section
/-! SUPPORT. The properties of the constants that other rules rely on (rule R32), among them that x³ + A·x + B has no root, so
no curve point has y = 0 and RECOVER's root is never 0. -/

namespace Sys2Proof.Laws

-- One proof at a time, to bound the memory of a build.
set_option Elab.async false

open Sys2Proof.Curve Sys2Proof.Machine

theorem P_mod_four : P % 4 = 3 := by decide
theorem halfN_eq : halfN = N / 2 := by decide
theorem two_halfN : 2 * halfN + 1 = N := by decide
theorem A_eq : A = P - 3 := by decide
theorem sqrt_exponent : (P + 1) / 4 = 0x3FFFFFFFC0000000400000000000000000000000400000000000000000000000 := by decide

/-- G is on the curve (rule R32). -/
theorem G_valid : validKey GX GY = true := by decide +kernel

/-- The curve equation's right side, in the field. -/
theorem curveRhs_cast (x : Nat) : (curveRhs x : ZMod P) = (x : ZMod P) ^ 3 + A * x + B := by
  simp only [curveRhs, sqrP, addP_cast, mulP_cast]
  ring

theorem curveRhs_lt (x : Nat) : curveRhs x < P := addP_lt _ _

/-! Residues modulo the cubic: c0 + c1·r + c2·r², where r is a root of x³ + A·x + B. -/

/-- A residue modulo the cubic. -/
structure Cubic where
  c0 : Nat
  c1 : Nat
  c2 : Nat
  deriving DecidableEq

/-- The value of a residue at r. -/
def Cubic.at (a : Cubic) (r : ZMod P) : ZMod P := a.c0 + a.c1 * r + a.c2 * r ^ 2

/-- The product modulo the cubic: r³ = -A·r - B. -/
def cubicMul (a b : Cubic) : Cubic :=
  let d3 := a.c1 * b.c2 + a.c2 * b.c1
  let d4 := a.c2 * b.c2
  { c0 := (a.c0 * b.c0 + (P - B) * d3) % P
    c1 := (a.c0 * b.c1 + a.c1 * b.c0 + (P - A) * d3 + (P - B) * d4) % P
    c2 := (a.c0 * b.c2 + a.c1 * b.c1 + a.c2 * b.c0 + (P - A) * d4) % P }

theorem cubicMul_at {r : ZMod P} (hr : r ^ 3 + A * r + B = 0) (a b : Cubic) :
    (cubicMul a b).at r = a.at r * b.at r := by
  have hA : ((P - A : Nat) : ZMod P) = -A := by
    rw [Nat.cast_sub (by decide : A ≤ P)]; simp
  have hB : ((P - B : Nat) : ZMod P) = -B := by
    rw [Nat.cast_sub (by decide : B ≤ P)]; simp
  simp only [cubicMul, Cubic.at, ZMod.natCast_mod, Nat.cast_add, Nat.cast_mul, hA, hB]
  linear_combination (-((a.c1 : ZMod P) * b.c2 + a.c2 * b.c1) - a.c2 * b.c2 * r) * hr

/-- `n` rounds of square-and-multiply modulo the cubic. -/
def cubicPowLoop : Nat → Cubic → Nat → Cubic → Cubic
  | 0, _, _, acc => acc
  | n + 1, b, e, acc => cubicPowLoop n (cubicMul b b) (e / 2) (if e % 2 = 1 then cubicMul acc b else acc)

theorem cubicPowLoop_at {r : ZMod P} (hr : r ^ 3 + A * r + B = 0) (n e : Nat) (b acc : Cubic) :
    (cubicPowLoop n b e acc).at r = acc.at r * b.at r ^ (e % 2 ^ n) := by
  induction n generalizing b e acc with
  | zero => simp [cubicPowLoop, Nat.mod_one]
  | succ n ih =>
    have split : e % 2 ^ (n + 1) = e % 2 + 2 * (e / 2 % 2 ^ n) := by
      rw [pow_succ', Nat.mod_mul]
    rw [cubicPowLoop, ih, cubicMul_at hr, split, pow_add, pow_mul, sq]
    rcases Nat.mod_two_eq_zero_or_one e with h | h
    · simp [h]
    · simp [h, cubicMul_at hr, mul_assoc]

/-- r to the power P, modulo the cubic. -/
def rootPowP : Cubic := cubicPowLoop 256 { c0 := 0, c1 := 1, c2 := 0 } P { c0 := 1, c1 := 0, c2 := 0 }

/-- r^P - r, modulo the cubic. -/
def rootGap : Cubic := { rootPowP with c1 := (rootPowP.c1 + (P - 1)) % P }

/-- The inverse of `rootGap` modulo the cubic: the cubic and x^P - x have no common factor. -/
def rootGapInverse : Cubic where
  c0 := 76626890310466861426869089647039036757962535851890885406097439786770458211455
  c1 := 74462945259064871768191128030512052509059297803194871526163573358218695456204
  c2 := 34768139465301476436978405170953382516735956999154666452188405812258086013549

theorem rootGap_inverse : cubicMul rootGapInverse rootGap = { c0 := 1, c1 := 0, c2 := 0 } := by decide +kernel

/-- x³ + A·x + B has no root in the field (rule R32). -/
theorem cubic_no_root (r : ZMod P) : r ^ 3 + A * r + B ≠ 0 := by
  intro hr
  have : Fact P.Prime := ⟨P_prime⟩
  have pow : rootPowP.at r = r := by
    rw [rootPowP, cubicPowLoop_at hr, Nat.mod_eq_of_lt (by decide : P < 2 ^ 256)]
    simp [Cubic.at, ZMod.pow_card]
  have gap : rootGap.at r = 0 := by
    have one : ((P - 1 : Nat) : ZMod P) = -1 := by
      rw [Nat.cast_sub (by decide : 1 ≤ P)]; simp
    have split : rootGap.at r = rootPowP.at r - r := by
      simp only [rootGap, Cubic.at, ZMod.natCast_mod, Nat.cast_add, one]
      ring
    rw [split, pow, sub_self]
  have := cubicMul_at hr rootGapInverse rootGap
  rw [rootGap_inverse, gap, mul_zero] at this
  simp [Cubic.at] at this

/-- ry2 of RECOVER is never 0 (rules R32, R231). -/
theorem curveRhs_ne_zero (x : Nat) : curveRhs x ≠ 0 := by
  intro h
  refine cubic_no_root (x : ZMod P) ?_
  rw [← curveRhs_cast, h, Nat.cast_zero]

/-- A root that passes step 4 of RECOVER is not 0, so step 5's P − ry is in [1, P) (rule R231). -/
theorem recoverY_range {v ry r : Nat} (hlt : ry < P) (h : sqrP ry = curveRhs r) :
    0 < recoverY v ry ∧ recoverY v ry < P := by
  have ne : ry ≠ 0 := by
    rintro rfl
    exact curveRhs_ne_zero r (by rw [← h]; decide)
  unfold recoverY
  split <;> omega

end Sys2Proof.Laws
end

