-- ==== Sys2Proof/Laws/Constants.lean ====
section
/-! SUPPORT. The constants have every property of rule R32's list. -/

namespace Sys2Proof.Laws

open Sys2Proof.Curve Sys2Proof.Machine

/-- The curve equation's right side is the exact polynomial's remainder (rules R11, R140, R230). -/
theorem curveRhs_eq (x : Nat) : curveRhs x = (x ^ 3 + A * x + B) % P := by
  refine eq_of_cast_eq (curveRhs_lt x) (Nat.mod_lt _ P_pos) ?_
  rw [curveRhs_cast, ZMod.natCast_mod]
  push_cast
  rfl

/-- No curve point has y = 0 (rule R32). -/
theorem validKey_y_zero (x : Nat) : validKey x 0 = false := by
  have h := (curveRhs_ne_zero x).symm
  simp [validKey, sqrP, mulP, h]

/-- The constants of rule R31 have the properties of rule R32. -/
theorem constant_properties : ConstantProperties where
  p_prime := P_prime
  n_prime := N_prime
  p_mod_four := P_mod_four
  root_exponent := sqrt_exponent
  n_lt_p := N_lt_P
  p_sub_n := by decide
  n_odd := by decide
  n_mod_four := by decide
  g_on_curve := by decide +kernel
  n_times_g := by decide +kernel
  no_root x _ := curveRhs_eq x ▸ curveRhs_ne_zero x
  y_ne_zero := validKey_y_zero
  ry2_ne_zero := curveRhs_ne_zero
  half_n := by decide
  two_half_n := two_halfN

end Sys2Proof.Laws
end

