-- ==== Sys2Proof/Laws/Points.lean ====
section
/-! SUPPORT. The datapath's values in the field, and that every datapath result and table entry is below P (rules R110, R162,
R164, R165, R181). -/

namespace Sys2Proof.Laws

-- One proof at a time, to bound the memory of a build.
set_option Elab.async false

open Sys2Proof.Curve Sys2Proof.Machine

/-- The triple's coordinates are below P. -/
abbrev JacLt (p : Jac) : Prop := p.x < P ∧ p.y < P ∧ p.z < P

theorem inRange_iff (p : Jac) : inRange p = true ↔ JacLt p := by
  simp [inRange, JacLt, and_assoc]

theorem jacIdentity_lt : JacLt jacIdentity := by decide +kernel

theorem jadd_lt (p q : Jac) : JacLt (jadd p q) := ⟨subP_lt _ _, subP_lt _ _, mulP_lt _ _⟩
theorem jdbl_lt (p : Jac) : JacLt (jdbl p) := ⟨subP_lt _ _, subP_lt _ _, mulP_lt _ _⟩

theorem toAffine_lt (p : Jac) : (toAffine p).x < P ∧ (toAffine p).y < P := by
  unfold toAffine
  split
  · decide
  · exact ⟨mulP_lt _ _, mulP_lt _ _⟩

/-! The locals and results of jadd in the field (rule R162). -/

theorem jaddU_cast (p q : Jac) : (jaddU p q : ZMod P) = p.x * q.z ^ 2 := by
  simp only [jaddU, mulP_cast]; ring
theorem jaddS_cast (p q : Jac) : (jaddS p q : ZMod P) = p.y * q.z ^ 3 := by
  simp only [jaddS, mulP_cast]; ring
theorem jaddU_le (p q : Jac) : jaddU p q ≤ P := (mulP_lt _ _).le
theorem jaddS_le (p q : Jac) : jaddS p q ≤ P := (mulP_lt _ _).le
theorem jaddH_cast (p q : Jac) : (jaddH p q : ZMod P) = q.x * p.z ^ 2 - p.x * q.z ^ 2 := by
  rw [jaddH, subP_cast _ (jaddU_le _ _), jaddU_cast, jaddU_cast]
theorem jaddR_cast (p q : Jac) : (jaddR p q : ZMod P) = q.y * p.z ^ 3 - p.y * q.z ^ 3 := by
  rw [jaddR, subP_cast _ (jaddS_le _ _), jaddS_cast, jaddS_cast]

/-- X' = r² − h³ − 2·u1·h², in the field (rule R162). -/
theorem jadd_x_cast (p q : Jac) :
    ((jadd p q).x : ZMod P) = (jaddR p q : ZMod P) ^ 2 - (jaddH p q : ZMod P) ^ 3
      - 2 * ((jaddU p q : ZMod P) * (jaddH p q : ZMod P) ^ 2) := by
  simp only [jadd]
  rw [subP_cast _ (mulP_lt _ _).le, subP_cast _ (mulP_lt _ _).le]
  simp only [mulP_cast, Nat.cast_ofNat]; ring

/-- Y' = r·(u1·h² − X') − s1·h³, in the field (rule R162). -/
theorem jadd_y_cast (p q : Jac) :
    ((jadd p q).y : ZMod P) = (jaddR p q : ZMod P) *
      ((jaddU p q : ZMod P) * (jaddH p q : ZMod P) ^ 2 - ((jadd p q).x : ZMod P))
      - (jaddS p q : ZMod P) * (jaddH p q : ZMod P) ^ 3 := by
  have hx : (jadd p q).x ≤ P := (jadd_lt p q).1.le
  simp only [jadd] at hx ⊢
  rw [subP_cast _ (mulP_lt _ _).le, mulP_cast, subP_cast _ hx]
  simp only [mulP_cast]; ring

/-- Z' = h·z1·z2, in the field (rule R162). -/
theorem jadd_z_cast (p q : Jac) : ((jadd p q).z : ZMod P) = (jaddH p q : ZMod P) * (p.z * q.z) := by
  simp only [jadd, mulP_cast]

/-! The results of jdbl in the field (rule R164): m = 3x² + A·z⁴, s = 4x·y², t = m² − 2s. -/

/-- X' = t, in the field. -/
theorem jdbl_x_cast (p : Jac) :
    ((jdbl p).x : ZMod P) = (3 * (p.x : ZMod P) ^ 2 + A * (p.z : ZMod P) ^ 4) ^ 2 - 8 * (p.x * (p.y : ZMod P) ^ 2) := by
  simp only [jdbl]
  rw [subP_cast _ (mulP_lt _ _).le]
  simp only [mulP_cast, addP_cast, Nat.cast_ofNat]; ring

/-- Y' = m·(s − t) − 8y⁴, in the field. -/
theorem jdbl_y_cast (p : Jac) :
    ((jdbl p).y : ZMod P) = (3 * (p.x : ZMod P) ^ 2 + A * (p.z : ZMod P) ^ 4) *
      (4 * (p.x * (p.y : ZMod P) ^ 2) - ((jdbl p).x : ZMod P)) - 8 * (p.y : ZMod P) ^ 4 := by
  have hx : (jdbl p).x ≤ P := (jdbl_lt p).1.le
  simp only [jdbl] at hx ⊢
  rw [subP_cast _ (mulP_lt _ _).le, mulP_cast, subP_cast _ hx]
  simp only [mulP_cast, addP_cast, Nat.cast_ofNat]; ring

/-- Z' = 2·y·z, in the field. -/
theorem jdbl_z_cast (p : Jac) : ((jdbl p).z : ZMod P) = 2 * ((p.y : ZMod P) * p.z) := by
  simp only [jdbl, mulP_cast, Nat.cast_ofNat]

/-! The table. -/

theorem tableRow_lt (row : Fin 3) : JacLt (tableRow row) := by
  fin_cases row
  · exact (by decide +kernel : JacLt tableG)
  · exact jdbl_lt _
  · exact jadd_lt _ _

theorem tableCol_lt {px py : Nat} (hx : px < P) (hy : py < P) (col : Fin 3) : JacLt (tableCol px py col) := by
  fin_cases col
  · exact ⟨hx, hy, by show 1 < P; decide⟩
  · exact jdbl_lt _
  · exact jadd_lt _ _

/-- Every entry of a table built from coordinates below P is below P (rules R110, R181). -/
theorem build_lt {px py : Nat} (hx : px < P) (hy : py < P) (k : Fin 16) : JacLt (build px py)[k] := by
  fin_cases k
  exacts [
    jacIdentity_lt,
    tableCol_lt hx hy 0,
    tableCol_lt hx hy 1,
    tableCol_lt hx hy 2,
    tableRow_lt 0,
    jadd_lt (tableRow 0) (tableCol px py 0),
    jadd_lt (tableRow 0) (tableCol px py 1),
    jadd_lt (tableRow 0) (tableCol px py 2),
    tableRow_lt 1,
    jadd_lt (tableRow 1) (tableCol px py 0),
    jadd_lt (tableRow 1) (tableCol px py 1),
    jadd_lt (tableRow 1) (tableCol px py 2),
    tableRow_lt 2,
    jadd_lt (tableRow 2) (tableCol px py 0),
    jadd_lt (tableRow 2) (tableCol px py 1),
    jadd_lt (tableRow 2) (tableCol px py 2)]

/-- TABLE[0] of every build is the identity (rule R181). -/
theorem build_zero (px py : Nat) : (build px py)[0] = jacIdentity := rfl

theorem storeTable_get (t : Vector Jac 16) (k : Fin 16) : (storeTable t)[k] = toEntry t[k] := by
  fin_cases k <;> rfl

theorem loadTable_get (t : Vector Entry 16) (k : Fin 16) : (loadTable t)[k] = ofEntry t[k] := by
  fin_cases k <;> rfl

/-- A 256-bit register holds a natural below 2^256 exactly. -/
theorem resOf_toNat {n : Nat} (h : n < 2 ^ 256) : (resOf n).toNat = n := by
  rw [resOf, BitVec.toNat_ofNat, Nat.mod_eq_of_lt h]

theorem resOf_toNat_of_lt_P {n : Nat} (h : n < P) : (resOf n).toNat = n := resOf_toNat (h.trans P_lt_two_pow)

/-- A triple below P survives the table store (rule R33). -/
theorem ofEntry_toEntry {p : Jac} (h : JacLt p) : ofEntry (toEntry p) = p := by
  obtain ⟨hx, hy, hz⟩ := h
  cases p
  simp_all [ofEntry, toEntry, resOf_toNat_of_lt_P]

/-- A built table survives the table store (rules R33, R286). -/
theorem loadTable_storeTable {px py : Nat} (hx : px < P) (hy : py < P) :
    loadTable (storeTable (build px py)) = build px py := by
  apply Vector.ext
  intro i hi
  have h := loadTable_get (storeTable (build px py)) ⟨i, hi⟩
  rw [storeTable_get, ofEntry_toEntry (build_lt hx hy _)] at h
  exact h

/-! The multiplier's loop. -/

theorem mulRounds_add (t : Vector Jac 16) (a b : Nat) (m : MulState) :
    mulRounds t (a + b) m = mulRounds t b (mulRounds t a m) := by
  induction a generalizing m with
  | zero => simp [mulRounds]
  | succ a ih => rw [Nat.succ_add, mulRounds, ih]; rfl

@[simp] theorem mulDouble_u1 (m : MulState) : (mulDouble m).u1 = m.u1 := by unfold mulDouble; split <;> rfl
@[simp] theorem mulDouble_u2 (m : MulState) : (mulDouble m).u2 = m.u2 := by unfold mulDouble; split <;> rfl
@[simp] theorem mulAdd_u1 (t : Vector Jac 16) (m : MulState) : (mulAdd t m).u1 = m.u1 := by
  simp only [mulAdd]; split_ifs <;> rfl
@[simp] theorem mulAdd_u2 (t : Vector Jac 16) (m : MulState) : (mulAdd t m).u2 = m.u2 := by
  simp only [mulAdd]; split_ifs <;> rfl
@[simp] theorem mulShift_acc (m : MulState) : (mulShift m).acc = m.acc := rfl
@[simp] theorem mulShift_degen (m : MulState) : (mulShift m).degen = m.degen := rfl

/-- A round shifts u1 whatever the table holds (rule R190). -/
@[simp] theorem mulRound_u1 (t : Vector Jac 16) (m : MulState) : (mulRound t m).u1 = shl2 m.u1 := by
  simp [mulRound, mulShift]

/-- A round shifts u2 whatever the table holds (rule R190). -/
@[simp] theorem mulRound_u2 (t : Vector Jac 16) (m : MulState) : (mulRound t m).u2 = shl2 m.u2 := by
  simp [mulRound, mulShift]

end Sys2Proof.Laws
end

