-- ==== Sys2Proof/Laws/Exec.lean ====
section
/-! SUPPORT. Everything the sequencer's step on a command can do, said once: it completes, sends a request, or waits for the
accelerator (rules R40, R243, R246, R280). It never faults and is never refused. -/

namespace Sys2Proof.Laws

-- One proof at a time, to bound the memory of a build.
set_option Elab.async false

open Sys2Proof.Curve Sys2Proof.Machine

/-- The error codes a command can end with (rule R243's table). -/
def errorsOf : Instr → List ErrCode
  | .inv => [.noError, .notInvertible, .badModulus]
  | .modexp => [.noError, .badModulus]
  | .validateKey => [.noError]
  | .checkSig => [.noError]
  | .jadd => [.noError, .range]
  | .jdbl => [.noError, .range]
  | .toaffine => [.noError, .range]
  | .buildTable => [.noError, .range]
  | .shamir => [.noError, .noTable]
  | .verify => [.noError, .accelFault]
  | .verifyStrict => [.noError, .accelUnavailable, .accelFault]
  | .recover => [.noError]

/-- The commands whose completion can write the table (rule R33). -/
def writesTable : Instr → Bool
  | .buildTable => true
  | .verify => true
  | .recover => true
  | .inv => false
  | .modexp => false
  | .validateKey => false
  | .checkSig => false
  | .jadd => false
  | .jdbl => false
  | .toaffine => false
  | .shamir => false
  | .verifyStrict => false

/-- What a completion of command `i` may carry: an error it can end with and then nothing else (rules R243, R246); a table
only if it can write one, built from coordinates below P (rules R33, R181). -/
structure LegalResults (i : Instr) (r : Results) : Prop where
  err : r.err ∈ errorsOf i
  error : r.err ≠ .noError → r = { err := r.err }
  table : ∀ t, r.table = some t →
    writesTable i = true ∧ ∃ px py, px < P ∧ py < P ∧ t = storeTable (build px py)

/-- The three things a command's step can do. -/
inductive ExecEffect (i : Instr) (s : State) : Prop where
  | completes (r : Results) (legal : LegalResults i r) (h : exec i s = .next (complete r s))
  | requests (op : i = .verify ∨ i = .verifyStrict) (launched : ∀ o p a, s.seq ≠ .waitAccel o p a)
      (valid : wellFormedInput s = true) (present : Config.accelPresent = true)
      (h : exec i s = .next (sendRequest i s))
  | waits (op : i = .verify ∨ i = .verifyStrict) (o : Instr) (p : Payload) (seq : s.seq = .waitAccel o p none)
      (h : exec i s = .next s)

theorem legal_of_no_table {i : Instr} {r : Results} (herr : r.err = .noError) (htab : r.table = none)
    (hmem : ErrCode.noError ∈ errorsOf i) : LegalResults i r :=
  ⟨herr ▸ hmem, fun h => absurd herr h, fun t h => by simp [htab] at h⟩

theorem legal_error {i : Instr} {e : ErrCode} (hmem : e ∈ errorsOf i) : LegalResults i { err := e } :=
  ⟨hmem, fun _ => rfl, fun t h => by simp at h⟩

theorem legal_table {i : Instr} {r : Results} {px py : Nat} (herr : r.err = .noError) (hw : writesTable i = true)
    (hx : px < P) (hy : py < P) (htab : r.table = some (storeTable (build px py)))
    (hmem : ErrCode.noError ∈ errorsOf i) : LegalResults i r :=
  ⟨herr ▸ hmem, fun h => absurd herr h, fun t h => ⟨hw, px, py, hx, hy, by
    rw [htab] at h; exact (Option.some.inj h).symm⟩⟩

theorem validKey_lt {x y : Nat} (h : validKey x y = true) : x < P ∧ y < P := by
  unfold validKey at h
  split at h
  · simp at h
  · omega

theorem wellFormedInput_lt {s : State} (h : wellFormedInput s = true) : argNat s 3 < P ∧ argNat s 4 < P :=
  validKey_lt (by simp only [wellFormedInput, Bool.and_eq_true] at h; exact h.2)

theorem properSig_lt {r s : Nat} (h : properSig r s = true) : 0 < r ∧ r < N ∧ 0 < s ∧ s ≤ halfN := by
  simpa [properSig, and_assoc] using h

/-- What RECOVER's computation can answer (rules R230, R231). -/
theorem recoverKey_table {h v r s : Nat} {k : Recovery} (hk : recoverKey h v r s = some k) :
    ∃ y, r < P ∧ y < P ∧ k.table = build r y := by
  unfold recoverKey at hk
  split at hk
  · simp at hk
  · rename_i h1
    simp only at hk
    split at hk
    · simp at hk
    · rename_i h2
      have hs : properSig r s = true := by
        rcases Bool.eq_false_or_eq_true (properSig r s) with h | h <;> simp_all
      have hr := (properSig_lt hs).2.1
      refine ⟨recoverY v (recoverRoot r), by have := N_lt_P; omega, ?_, ?_⟩
      · exact (recoverY_range (modPow_lt P_pos _ _) (not_not.1 h2)).2
      · rw [← Option.some.inj hk]

/-- The software path completes legally (rules R210, R211). -/
theorem verifySoftware_eq {s : State} (h : wellFormedInput s = true) :
    ∃ r, LegalResults .verify r ∧ verifySoftware s = complete r s := by
  obtain ⟨hx, hy⟩ := wellFormedInput_lt h
  exact ⟨_, legal_table rfl rfl hx hy rfl (by decide), rfl⟩

/-- The inversion of exec: a command's step completes legally, sends a request, or waits. A request whose answer is awaited or
taken has passed the validation (rule R221), which the invariant `AccelInv` says. -/
theorem exec_effect (i : Instr) (s : State)
    (hreq : ∀ o p a, s.seq = .waitAccel o p a → wellFormedInput s = true) : ExecEffect i s := by
  cases i with
  | inv =>
    rcases inv_cases (argNat s 0) (argNat s 1) with ⟨-, h⟩ | ⟨-, -, h⟩ | ⟨-, -, h⟩
    · exact .completes { err := .badModulus } (legal_error (by decide)) (by
        simp only [exec, execInv, completeValue, h, raiseError])
    · exact .completes { err := .notInvertible } (legal_error (by decide)) (by
        simp only [exec, execInv, completeValue, h, raiseError])
    · exact .completes { res0 := resOf (invValue (argNat s 0) (argNat s 1)) } (legal_of_no_table rfl rfl (by decide)) (by
        simp only [exec, execInv, completeValue, h])
  | modexp =>
    rcases modpow_cases (argNat s 0) (argNat s 1) (argNat s 2) with ⟨-, h⟩ | ⟨-, h⟩
    · exact .completes { err := .badModulus } (legal_error (by decide)) (by
        simp only [exec, execModexp, completeValue, h, raiseError])
    · exact .completes { res0 := resOf (modPow (argNat s 0) (argNat s 1) (argNat s 2)) }
        (legal_of_no_table rfl rfl (by decide)) (by simp only [exec, execModexp, completeValue, h])
  | validateKey => exact .completes _ (legal_of_no_table rfl rfl (by decide)) rfl
  | checkSig => exact .completes _ (legal_of_no_table rfl rfl (by decide)) rfl
  | jadd =>
    by_cases h : (inRange (argPoint1 s) && inRange (argPoint2 s)) = true
    · exact .completes
        { res0 := resOf (jadd (argPoint1 s) (argPoint2 s)).x, res1 := resOf (jadd (argPoint1 s) (argPoint2 s)).y,
          res2 := resOf (jadd (argPoint1 s) (argPoint2 s)).z, degen := jaddDegenerate (argPoint1 s) (argPoint2 s) }
        (legal_of_no_table rfl rfl (by decide)) (by
        simp only [exec, execJadd, h, if_true, completePoint])
    · exact .completes { err := .range } (legal_error (by decide)) (by
        simp only [exec, execJadd, h, if_false, raiseError, Bool.false_eq_true])
  | jdbl =>
    by_cases h : inRange (argPoint1 s) = true
    · exact .completes
        { res0 := resOf (jdbl (argPoint1 s)).x, res1 := resOf (jdbl (argPoint1 s)).y,
          res2 := resOf (jdbl (argPoint1 s)).z, degen := jdblDegenerate (argPoint1 s) }
        (legal_of_no_table rfl rfl (by decide)) (by
        simp only [exec, execJdbl, h, if_true, completePoint])
    · exact .completes { err := .range } (legal_error (by decide)) (by
        simp only [exec, execJdbl, h, if_false, raiseError, Bool.false_eq_true])
  | toaffine =>
    by_cases h : inRange (argPoint1 s) = true
    · exact .completes
        { res0 := resOf (toAffine (argPoint1 s)).x, res1 := resOf (toAffine (argPoint1 s)).y }
        (legal_of_no_table rfl rfl (by decide)) (by
        simp only [exec, execToaffine, h, if_true])
    · exact .completes { err := .range } (legal_error (by decide)) (by
        simp only [exec, execToaffine, h, if_false, raiseError, Bool.false_eq_true])
  | buildTable =>
    by_cases h : argNat s 0 ≥ P ∨ argNat s 1 ≥ P
    · exact .completes { err := .range } (legal_error (by decide)) (by
        simp only [exec, execBuildTable, h, if_true, raiseError])
    · exact .completes
        { table := some (storeTable (build (argNat s 0) (argNat s 1))),
          degen := buildDegenerate (argNat s 0) (argNat s 1) }
        (legal_table (px := argNat s 0) (py := argNat s 1) rfl rfl (by omega) (by omega) rfl (by decide)) (by
        simp only [exec, execBuildTable, h, if_false])
  | shamir =>
    by_cases h : s.status.tableValid = true
    · exact .completes
        { res0 := resOf (multiply (loadTable s.table) (argNat s 0) (argNat s 1)).x,
          res1 := resOf (multiply (loadTable s.table) (argNat s 0) (argNat s 1)).y,
          degen := multiplyDegenerate (loadTable s.table) (argNat s 0) (argNat s 1) }
        (legal_of_no_table rfl rfl (by decide)) (by
        simp only [exec, execShamir, h, if_true])
    · exact .completes { err := .noTable } (legal_error (by decide)) (by
        simp only [exec, execShamir, h, if_false, raiseError, Bool.false_eq_true])
  | verify =>
    have launched : (∀ o p a, s.seq ≠ .waitAccel o p a) →
        exec .verify s = .next (verifyLaunched Config.accelPresent s) → ExecEffect .verify s := by
      intro hl he
      by_cases hw : wellFormedInput s = true
      · by_cases hp : (sampledAccelEn s && Config.accelPresent) = true
        · exact .requests (.inl rfl) hl hw (by simp only [Bool.and_eq_true] at hp; exact hp.2) (by
            rw [he]; simp only [verifyLaunched, hw, hp, Bool.not_true, Bool.false_eq_true, if_false, if_true])
        · obtain ⟨r, hr, e⟩ := verifySoftware_eq hw
          exact .completes r hr (by
            rw [he]; simp only [verifyLaunched, hw, hp, Bool.not_true, Bool.false_eq_true, if_false, e])
      · exact .completes {} (legal_of_no_table rfl rfl (by decide)) (by
          rw [he]; simp only [verifyLaunched, hw, Bool.not_false, if_true])
    cases hseq : s.seq with
    | idle => exact launched (by simp [hseq]) (by simp only [exec, execVerify, hseq])
    | run op en => exact launched (by simp [hseq]) (by simp only [exec, execVerify, hseq])
    | waitAccel o p a =>
      cases a with
      | none => exact .waits (.inl rfl) o p hseq (by simp only [exec, execVerify, hseq])
      | some a =>
        cases a with
        | valid b => exact .completes { res0 := boolRes b, accelUsed := true } (legal_of_no_table rfl rfl (by decide)) (by
            simp only [exec, execVerify, hseq, verifyAnswered, completeAccel])
        | reserved => exact .completes { err := .accelFault } (legal_error (by decide)) (by
            simp only [exec, execVerify, hseq, verifyAnswered, raiseError])
        | unsupported =>
          obtain ⟨r, hr, e⟩ := verifySoftware_eq (hreq o p _ hseq)
          exact .completes r hr (by simp only [exec, execVerify, hseq, verifyAnswered, e])
  | verifyStrict =>
    have launched : (∀ o p a, s.seq ≠ .waitAccel o p a) →
        exec .verifyStrict s = .next (strictLaunched Config.accelPresent s) → ExecEffect .verifyStrict s := by
      intro hl he
      by_cases hw : wellFormedInput s = true
      · by_cases hp : Config.accelPresent = true
        · exact .requests (.inr rfl) hl hw hp (by
            rw [he]; simp only [strictLaunched, hw, hp, Bool.not_true, Bool.false_eq_true, if_false, if_true])
        · exact .completes { err := .accelUnavailable } (legal_error (by decide)) (by
            rw [he]; simp only [strictLaunched, hw, hp, Bool.not_true, Bool.false_eq_true, if_false, raiseError])
      · exact .completes {} (legal_of_no_table rfl rfl (by decide)) (by
          rw [he]; simp only [strictLaunched, hw, Bool.not_false, if_true])
    cases hseq : s.seq with
    | idle => exact launched (by simp [hseq]) (by simp only [exec, execVerifyStrict, hseq])
    | run op en => exact launched (by simp [hseq]) (by simp only [exec, execVerifyStrict, hseq])
    | waitAccel o p a =>
      cases a with
      | none => exact .waits (.inr rfl) o p hseq (by simp only [exec, execVerifyStrict, hseq])
      | some a =>
        cases a with
        | valid b => exact .completes { res0 := boolRes b, accelUsed := true } (legal_of_no_table rfl rfl (by decide)) (by
            simp only [exec, execVerifyStrict, hseq, strictAnswered, completeAccel])
        | reserved => exact .completes { err := .accelFault } (legal_error (by decide)) (by
            simp only [exec, execVerifyStrict, hseq, strictAnswered, raiseError])
        | unsupported => exact .completes { err := .accelUnavailable } (legal_error (by decide)) (by
            simp only [exec, execVerifyStrict, hseq, strictAnswered, raiseError])
  | recover =>
    cases hk : recoverKey (argNat s 0) (argNat s 1) (argNat s 2) (argNat s 3) with
    | none => exact .completes {} (legal_of_no_table rfl rfl (by decide)) (by simp only [exec, execRecover, hk])
    | some k =>
      obtain ⟨y, hr, hy, ht⟩ := recoverKey_table hk
      exact .completes
        { res0 := resOf k.point.x, res1 := resOf k.point.y, table := some (storeTable k.table), degen := k.degen }
        (legal_table rfl rfl hr hy (by rw [ht]) (by decide)) (by simp only [exec, execRecover, hk])

end Sys2Proof.Laws
end

