-- ==== Sys2Proof/Laws/HostAgent.lean ====
section
/-! SUPPORT. The host's variables: reading after an assignment, and the canonical form. -/

namespace Sys2Proof.Laws

open Sys2Proof.Machine

theorem varsWf_tail {x v : Nat} {rest : List (Nat × Nat)} (h : varsWf ((x, v) :: rest) = true) : varsWf rest = true := by
  cases rest with
  | nil => rfl
  | cons b rest => simp only [varsWf, Bool.and_eq_true] at h; exact h.2

theorem varsWf_value {x v : Nat} {rest : List (Nat × Nat)} (h : varsWf ((x, v) :: rest) = true) : v ≠ 0 := by
  cases rest <;> simp [varsWf] at h <;> tauto

/-- In canonical form every later variable is greater. -/
theorem varsWf_lt {x v : Nat} {rest : List (Nat × Nat)} (h : varsWf ((x, v) :: rest) = true) :
    ∀ a ∈ rest, x < a.1 := by
  induction rest generalizing x v with
  | nil => simp
  | cons b rest ih =>
    obtain ⟨y, w⟩ := b
    have hxy : x < y := by simp only [varsWf, Bool.and_eq_true, decide_eq_true_eq] at h; exact h.1.2
    intro a ha
    rcases List.mem_cons.1 ha with rfl | ha
    · exact hxy
    · exact hxy.trans (ih (varsWf_tail h) a ha)

/-- A canonical list is built from a head below a canonical tail. -/
theorem varsWf_cons {x v : Nat} {rest : List (Nat × Nat)} (hv : v ≠ 0) (hlt : ∀ a ∈ rest, x < a.1)
    (h : varsWf rest = true) : varsWf ((x, v) :: rest) = true := by
  cases rest with
  | nil => simp [varsWf, hv]
  | cons b rest => simp [varsWf, hv, hlt b (by simp), h]

theorem varSet_bound {y : Nat} (l : List (Nat × Nat)) (x v : Nat) (hx : y < x) (hl : ∀ a ∈ l, y < a.1) :
    ∀ a ∈ varSet l x v, y < a.1 := by
  induction l with
  | nil => unfold varSet; split <;> simp [hx]
  | cons b l ih =>
    have hb : y < b.1 := hl b (by simp)
    have ht : ∀ a ∈ l, y < a.1 := fun a ha => hl a (by simp [ha])
    intro a ha
    unfold varSet at ha
    split_ifs at ha
    · exact hl a ha
    · rcases List.mem_cons.1 ha with rfl | ha
      · exact hx
      · exact hl a ha
    · exact ht a ha
    · rcases List.mem_cons.1 ha with rfl | ha
      · exact hx
      · exact ht a ha
    · rcases List.mem_cons.1 ha with rfl | ha
      · exact hb
      · exact ih ht a ha

/-- An assignment keeps the canonical form. -/
theorem varSet_wf {l : List (Nat × Nat)} (h : varsWf l = true) (x v : Nat) : varsWf (varSet l x v) = true := by
  induction l with
  | nil => unfold varSet; split <;> simp_all [varsWf]
  | cons b l ih =>
    obtain ⟨y, w⟩ := b
    have hw := varsWf_value h
    have hlt := varsWf_lt h
    have ht := varsWf_tail h
    unfold varSet
    split_ifs with h1 h2 h3 h4
    · exact h
    · exact varsWf_cons h2 (by
        intro a ha
        rcases List.mem_cons.1 ha with rfl | ha
        · exact h1
        · exact h1.trans (hlt a ha)) h
    · exact ht
    · exact varsWf_cons h4 (by subst h3; exact hlt) ht
    · exact varsWf_cons hw (varSet_bound l x v (by omega) hlt) (ih ht)

theorem varGet_of_bound {l : List (Nat × Nat)} {x : Nat} (h : ∀ a ∈ l, x < a.1) : varGet l x = 0 := by
  induction l with
  | nil => rfl
  | cons b l ih =>
    have hb : x < b.1 := h b (by simp)
    rw [varGet, if_neg (by omega)]
    exact ih fun a ha => h a (by simp [ha])

/-- The variable assigned holds the value. -/
theorem varGet_varSet_same {l : List (Nat × Nat)} (h : varsWf l = true) (x v : Nat) : varGet (varSet l x v) x = v := by
  induction l with
  | nil => unfold varSet; split <;> simp_all [varGet]
  | cons b l ih =>
    obtain ⟨y, w⟩ := b
    have hlt := varsWf_lt h
    unfold varSet
    split_ifs with h1 h2 h3 h4
    · rw [h2, varGet, if_neg (by omega)]
      exact varGet_of_bound fun a ha => h1.trans (hlt a ha)
    · simp [varGet]
    · rw [h4]; subst h3; exact varGet_of_bound hlt
    · simp [varGet]
    · rw [varGet, if_neg (by omega)]
      exact ih (varsWf_tail h)

/-- The other variables are unchanged. -/
theorem varGet_varSet_ne {l : List (Nat × Nat)} (h : varsWf l = true) {x z : Nat} (hne : z ≠ x) (v : Nat) :
    varGet (varSet l x v) z = varGet l z := by
  induction l with
  | nil => unfold varSet; split <;> simp [varGet, Ne.symm hne]
  | cons b l ih =>
    obtain ⟨y, w⟩ := b
    have ht := ih (varsWf_tail h)
    unfold varSet
    split_ifs with h1 h2 h3 h4
    · rfl
    · rw [varGet, if_neg (Ne.symm hne)]
    · subst h3; rw [varGet, if_neg (Ne.symm hne)]
    · subst h3; rw [varGet, varGet, if_neg (Ne.symm hne), if_neg (Ne.symm hne)]
    · rw [varGet, varGet, ht]

end Sys2Proof.Laws
end

