-- ==== Sys2Proof/Laws/State.lean ====
section
/-! SUPPORT. One lemma per field per update of the state and of STATUS, true by rfl, so that no later proof unfolds a record
update. -/

namespace Sys2Proof.Machine

/-! `accept`. -/

@[simp] theorem accept_args (w : Word) (s : State) : (accept w s).args = s.args := rfl
@[simp] theorem accept_res (w : Word) (s : State) : (accept w s).res = s.res := rfl
@[simp] theorem accept_ctrl (w : Word) (s : State) : (accept w s).ctrl = s.ctrl := rfl
@[simp] theorem accept_cmd (w : Word) (s : State) : (accept w s).cmd = w := rfl
@[simp] theorem accept_status (w : Word) (s : State) : (accept w s).status = statusAccepted s.status := rfl
@[simp] theorem accept_doneIrq (w : Word) (s : State) : (accept w s).doneIrq = s.doneIrq := rfl
@[simp] theorem accept_table (w : Word) (s : State) : (accept w s).table = s.table := rfl
@[simp] theorem accept_seq (w : Word) (s : State) : (accept w s).seq = .run (opOfWord w) s.ctrl.accelEn := rfl
@[simp] theorem accept_accelPending (w : Word) (s : State) : (accept w s).accelPending = s.accelPending := rfl
@[simp] theorem accept_host (w : Word) (s : State) : (accept w s).host = s.host := rfl
@[simp] theorem accept_turns (w : Word) (s : State) : (accept w s).turns = s.turns := rfl
@[simp] theorem accept_draws (w : Word) (s : State) : (accept w s).draws = s.draws := rfl

/-! `complete`. -/

@[simp] theorem complete_args (r : Results) (s : State) : (complete r s).args = s.args := rfl
@[simp] theorem complete_res (r : Results) (s : State) : (complete r s).res = #v[r.res0, r.res1, r.res2] := rfl
@[simp] theorem complete_ctrl (r : Results) (s : State) : (complete r s).ctrl = s.ctrl := rfl
@[simp] theorem complete_cmd (r : Results) (s : State) : (complete r s).cmd = s.cmd := rfl
@[simp] theorem complete_status (r : Results) (s : State) : (complete r s).status = statusCompleted r s.status := rfl
@[simp] theorem complete_doneIrq (r : Results) (s : State) : (complete r s).doneIrq = true := rfl
@[simp] theorem complete_table (r : Results) (s : State) : (complete r s).table = r.table.getD s.table := rfl
@[simp] theorem complete_seq (r : Results) (s : State) : (complete r s).seq = .idle := rfl
@[simp] theorem complete_accelPending (r : Results) (s : State) : (complete r s).accelPending = s.accelPending := rfl
@[simp] theorem complete_host (r : Results) (s : State) : (complete r s).host = s.host := rfl
@[simp] theorem complete_turns (r : Results) (s : State) : (complete r s).turns = s.turns := rfl
@[simp] theorem complete_draws (r : Results) (s : State) : (complete r s).draws = s.draws := rfl

/-! `resetBlock`. -/

@[simp] theorem resetBlock_args (s : State) : (resetBlock s).args = State.reset.args := rfl
@[simp] theorem resetBlock_res (s : State) : (resetBlock s).res = State.reset.res := rfl
@[simp] theorem resetBlock_ctrl (s : State) : (resetBlock s).ctrl = State.reset.ctrl := rfl
@[simp] theorem resetBlock_cmd (s : State) : (resetBlock s).cmd = State.reset.cmd := rfl
@[simp] theorem resetBlock_status (s : State) : (resetBlock s).status = State.reset.status := rfl
@[simp] theorem resetBlock_doneIrq (s : State) : (resetBlock s).doneIrq = State.reset.doneIrq := rfl
@[simp] theorem resetBlock_table (s : State) : (resetBlock s).table = State.reset.table := rfl
@[simp] theorem resetBlock_seq (s : State) : (resetBlock s).seq = State.reset.seq := rfl
@[simp] theorem resetBlock_accelPending (s : State) : (resetBlock s).accelPending = State.reset.accelPending := rfl
@[simp] theorem resetBlock_host (s : State) : (resetBlock s).host = s.host := rfl
@[simp] theorem resetBlock_turns (s : State) : (resetBlock s).turns = s.turns := rfl
@[simp] theorem resetBlock_draws (s : State) : (resetBlock s).draws = s.draws := rfl

/-! `sendRequest`. -/

@[simp] theorem sendRequest_args (op : Instr) (s : State) : (sendRequest op s).args = s.args := rfl
@[simp] theorem sendRequest_res (op : Instr) (s : State) : (sendRequest op s).res = s.res := rfl
@[simp] theorem sendRequest_ctrl (op : Instr) (s : State) : (sendRequest op s).ctrl = s.ctrl := rfl
@[simp] theorem sendRequest_cmd (op : Instr) (s : State) : (sendRequest op s).cmd = s.cmd := rfl
@[simp] theorem sendRequest_status (op : Instr) (s : State) : (sendRequest op s).status = s.status := rfl
@[simp] theorem sendRequest_doneIrq (op : Instr) (s : State) : (sendRequest op s).doneIrq = s.doneIrq := rfl
@[simp] theorem sendRequest_table (op : Instr) (s : State) : (sendRequest op s).table = s.table := rfl
@[simp] theorem sendRequest_seq (op : Instr) (s : State) : (sendRequest op s).seq = .waitAccel op (requestPayload s) none := rfl
@[simp] theorem sendRequest_accelPending (op : Instr) (s : State) : (sendRequest op s).accelPending = true := rfl
@[simp] theorem sendRequest_host (op : Instr) (s : State) : (sendRequest op s).host = s.host := rfl
@[simp] theorem sendRequest_turns (op : Instr) (s : State) : (sendRequest op s).turns = s.turns := rfl
@[simp] theorem sendRequest_draws (op : Instr) (s : State) : (sendRequest op s).draws = s.draws := rfl

/-! `popTurn`. -/

@[simp] theorem popTurn_args (s : State) : (popTurn s).args = s.args := rfl
@[simp] theorem popTurn_res (s : State) : (popTurn s).res = s.res := rfl
@[simp] theorem popTurn_ctrl (s : State) : (popTurn s).ctrl = s.ctrl := rfl
@[simp] theorem popTurn_cmd (s : State) : (popTurn s).cmd = s.cmd := rfl
@[simp] theorem popTurn_status (s : State) : (popTurn s).status = s.status := rfl
@[simp] theorem popTurn_doneIrq (s : State) : (popTurn s).doneIrq = s.doneIrq := rfl
@[simp] theorem popTurn_table (s : State) : (popTurn s).table = s.table := rfl
@[simp] theorem popTurn_seq (s : State) : (popTurn s).seq = s.seq := rfl
@[simp] theorem popTurn_accelPending (s : State) : (popTurn s).accelPending = s.accelPending := rfl
@[simp] theorem popTurn_host (s : State) : (popTurn s).host = s.host := rfl
@[simp] theorem popTurn_turns (s : State) : (popTurn s).turns = s.turns.tail := rfl
@[simp] theorem popTurn_draws (s : State) : (popTurn s).draws = s.draws := rfl

/-! `hostAdvance`. -/

@[simp] theorem hostAdvance_args (s : State) : (hostAdvance s).args = s.args := rfl
@[simp] theorem hostAdvance_res (s : State) : (hostAdvance s).res = s.res := rfl
@[simp] theorem hostAdvance_ctrl (s : State) : (hostAdvance s).ctrl = s.ctrl := rfl
@[simp] theorem hostAdvance_cmd (s : State) : (hostAdvance s).cmd = s.cmd := rfl
@[simp] theorem hostAdvance_status (s : State) : (hostAdvance s).status = s.status := rfl
@[simp] theorem hostAdvance_doneIrq (s : State) : (hostAdvance s).doneIrq = s.doneIrq := rfl
@[simp] theorem hostAdvance_table (s : State) : (hostAdvance s).table = s.table := rfl
@[simp] theorem hostAdvance_seq (s : State) : (hostAdvance s).seq = s.seq := rfl
@[simp] theorem hostAdvance_accelPending (s : State) : (hostAdvance s).accelPending = s.accelPending := rfl
@[simp] theorem hostAdvance_host (s : State) : (hostAdvance s).host = { s.host with pos := s.host.pos + 1 } := rfl
@[simp] theorem hostAdvance_turns (s : State) : (hostAdvance s).turns = s.turns := rfl
@[simp] theorem hostAdvance_draws (s : State) : (hostAdvance s).draws = s.draws := rfl

/-! `hostJump`. -/

@[simp] theorem hostJump_args (name : Nat) (s : State) : (hostJump name s).args = s.args := rfl
@[simp] theorem hostJump_res (name : Nat) (s : State) : (hostJump name s).res = s.res := rfl
@[simp] theorem hostJump_ctrl (name : Nat) (s : State) : (hostJump name s).ctrl = s.ctrl := rfl
@[simp] theorem hostJump_cmd (name : Nat) (s : State) : (hostJump name s).cmd = s.cmd := rfl
@[simp] theorem hostJump_status (name : Nat) (s : State) : (hostJump name s).status = s.status := rfl
@[simp] theorem hostJump_doneIrq (name : Nat) (s : State) : (hostJump name s).doneIrq = s.doneIrq := rfl
@[simp] theorem hostJump_table (name : Nat) (s : State) : (hostJump name s).table = s.table := rfl
@[simp] theorem hostJump_seq (name : Nat) (s : State) : (hostJump name s).seq = s.seq := rfl
@[simp] theorem hostJump_accelPending (name : Nat) (s : State) : (hostJump name s).accelPending = s.accelPending := rfl
@[simp] theorem hostJump_host (name : Nat) (s : State) : (hostJump name s).host = { s.host with pos := (labelPos name s.host.program).getD s.host.program.length } := rfl
@[simp] theorem hostJump_turns (name : Nat) (s : State) : (hostJump name s).turns = s.turns := rfl
@[simp] theorem hostJump_draws (name : Nat) (s : State) : (hostJump name s).draws = s.draws := rfl

/-! `hostAssign`. -/

@[simp] theorem hostAssign_args (x v : Nat) (s : State) : (hostAssign x v s).args = s.args := rfl
@[simp] theorem hostAssign_res (x v : Nat) (s : State) : (hostAssign x v s).res = s.res := rfl
@[simp] theorem hostAssign_ctrl (x v : Nat) (s : State) : (hostAssign x v s).ctrl = s.ctrl := rfl
@[simp] theorem hostAssign_cmd (x v : Nat) (s : State) : (hostAssign x v s).cmd = s.cmd := rfl
@[simp] theorem hostAssign_status (x v : Nat) (s : State) : (hostAssign x v s).status = s.status := rfl
@[simp] theorem hostAssign_doneIrq (x v : Nat) (s : State) : (hostAssign x v s).doneIrq = s.doneIrq := rfl
@[simp] theorem hostAssign_table (x v : Nat) (s : State) : (hostAssign x v s).table = s.table := rfl
@[simp] theorem hostAssign_seq (x v : Nat) (s : State) : (hostAssign x v s).seq = s.seq := rfl
@[simp] theorem hostAssign_accelPending (x v : Nat) (s : State) : (hostAssign x v s).accelPending = s.accelPending := rfl
@[simp] theorem hostAssign_host (x v : Nat) (s : State) : (hostAssign x v s).host = { s.host with vars := varSet s.host.vars x v, pos := s.host.pos + 1 } := rfl
@[simp] theorem hostAssign_turns (x v : Nat) (s : State) : (hostAssign x v s).turns = s.turns := rfl
@[simp] theorem hostAssign_draws (x v : Nat) (s : State) : (hostAssign x v s).draws = s.draws := rfl

/-! STATUS updates. -/

@[simp] theorem statusAccepted_busy (st : Status) : (statusAccepted st).busy = true := rfl
@[simp] theorem statusAccepted_done (st : Status) : (statusAccepted st).done = false := rfl
@[simp] theorem statusAccepted_tableValid (st : Status) : (statusAccepted st).tableValid = st.tableValid := rfl
@[simp] theorem statusAccepted_busyWrite (st : Status) : (statusAccepted st).busyWrite = false := rfl
@[simp] theorem statusAccepted_err (st : Status) : (statusAccepted st).err = .noError := rfl
@[simp] theorem statusAccepted_accelUsed (st : Status) : (statusAccepted st).accelUsed = false := rfl
@[simp] theorem statusAccepted_degen (st : Status) : (statusAccepted st).degen = false := rfl

@[simp] theorem statusCompleted_busy (r : Results) (st : Status) : (statusCompleted r st).busy = false := rfl
@[simp] theorem statusCompleted_done (r : Results) (st : Status) : (statusCompleted r st).done = true := rfl
@[simp] theorem statusCompleted_tableValid (r : Results) (st : Status) : (statusCompleted r st).tableValid = (st.tableValid || r.table.isSome) := rfl
@[simp] theorem statusCompleted_busyWrite (r : Results) (st : Status) : (statusCompleted r st).busyWrite = st.busyWrite := rfl
@[simp] theorem statusCompleted_err (r : Results) (st : Status) : (statusCompleted r st).err = r.err := rfl
@[simp] theorem statusCompleted_accelUsed (r : Results) (st : Status) : (statusCompleted r st).accelUsed = r.accelUsed := rfl
@[simp] theorem statusCompleted_degen (r : Results) (st : Status) : (statusCompleted r st).degen = r.degen := rfl

@[simp] theorem statusBusyWrite_busy (st : Status) : (statusBusyWrite st).busy = st.busy := rfl
@[simp] theorem statusBusyWrite_done (st : Status) : (statusBusyWrite st).done = st.done := rfl
@[simp] theorem statusBusyWrite_tableValid (st : Status) : (statusBusyWrite st).tableValid = st.tableValid := rfl
@[simp] theorem statusBusyWrite_busyWrite (st : Status) : (statusBusyWrite st).busyWrite = true := rfl
@[simp] theorem statusBusyWrite_err (st : Status) : (statusBusyWrite st).err = st.err := rfl
@[simp] theorem statusBusyWrite_accelUsed (st : Status) : (statusBusyWrite st).accelUsed = st.accelUsed := rfl
@[simp] theorem statusBusyWrite_degen (st : Status) : (statusBusyWrite st).degen = st.degen := rfl

/-! The reset state. -/

@[simp] theorem reset_args : State.reset.args = Vector.replicate 6 0 := rfl
@[simp] theorem reset_res : State.reset.res = Vector.replicate 3 0 := rfl
@[simp] theorem reset_ctrl : State.reset.ctrl = { accelEn := false, irqEn := false } := rfl
@[simp] theorem reset_cmd : State.reset.cmd = 0 := rfl
@[simp] theorem reset_status : State.reset.status = { busy := false, done := false, tableValid := false, busyWrite := false, err := .noError, accelUsed := false, degen := false } := rfl
@[simp] theorem reset_doneIrq : State.reset.doneIrq = false := rfl
@[simp] theorem reset_table : State.reset.table = Vector.replicate 16 { x := 0, y := 0, z := 0 } := rfl
@[simp] theorem reset_seq : State.reset.seq = .idle := rfl
@[simp] theorem reset_accelPending : State.reset.accelPending = false := rfl
@[simp] theorem reset_host : State.reset.host = { program := [], pos := 0, vars := [] } := rfl
@[simp] theorem reset_turns : State.reset.turns = [] := rfl
@[simp] theorem reset_draws : State.reset.draws = 0 := rfl

end Sys2Proof.Machine
end

