-- ==== Sys2Proof/Laws/Ops.lean ====
section
/-! SUPPORT. What each shared operation over the register window and the accelerator port can do, said once (rules R24, R62,
R63, R64, R220). -/

namespace Sys2Proof.Laws

open Sys2Proof.Machine

/-! The register map: where each 256-bit register's words stand (rules R24, R36, R61). -/

theorem locate_arg : ∀ (i : Fin 6) (k : Fin 8), locate (0x100 + 0x20 * i.val + 4 * k.val) = .arg i k := by decide
theorem locate_res : ∀ (j : Fin 3) (k : Fin 8), locate (0x200 + 0x20 * j.val + 4 * k.val) = .res j k := by decide
theorem locate_rom : ∀ (n : Fin 7) (k : Fin 8), locate (0x300 + 0x20 * n.val + 4 * k.val) = .rom n k := by decide
theorem locate_table : ∀ (e : Fin 16) (c : Fin 3) (k : Fin 8),
    locate (0x400 + 0x60 * e.val + 0x20 * c.val + 4 * k.val) = .table e c k := by decide +kernel

theorem accessOk_iff (size off : Nat) : accessOk size off = true ↔ size = 4 ∧ off % 4 = 0 ∧ off < 4096 := by
  simp only [accessOk, Bool.and_eq_true, beq_iff_eq, decide_eq_true_eq, and_assoc]
  exact Iff.rfl

/-- A write either is a bus error or has rule R63's effect at its location. -/
theorem memWrite_cases (size off : Nat) (v : Word) (s : State) :
    (accessOk size off = true ∧ memWrite size off v s = .ok (writeLoc v s (locate off))) ∨
    (accessOk size off = false ∧ memWrite size off v s = .error .busError) := by
  unfold memWrite
  cases accessOk size off <;> simp

/-- A read either is a bus error or returns the location's word. -/
theorem memRead_cases (size off : Nat) (s : State) :
    (accessOk size off = true ∧ memRead size off s = .ok (readLoc s (locate off))) ∨
    (accessOk size off = false ∧ memRead size off s = .error .busError) := by
  unfold memRead
  cases accessOk size off <;> simp

/-- Everything a write to the window can do (rules R27, R28, R30, R63, R271). -/
theorem writeLoc_cases (v : Word) (s : State) (l : Loc) :
    (writeLoc v s l = s) ∨
    (l = .ctrl ∧ v.getLsbD 0 = true ∧ writeLoc v s l = resetBlock s) ∨
    (l = .ctrl ∧ v.getLsbD 0 = false ∧ writeLoc v s l = { s with ctrl := ctrlOfWord v }) ∨
    (l = .cmd ∧ s.status.busy = false ∧ writeLoc v s l = accept v s) ∨
    ((l = .cmd ∨ ∃ i k, l = .arg i k) ∧ s.status.busy = true ∧
      writeLoc v s l = { s with status := statusBusyWrite s.status }) ∨
    (l = .irqStatus ∧ v.getLsbD 0 = true ∧ writeLoc v s l = { s with doneIrq := false }) ∨
    (∃ i k, l = .arg i k ∧ s.status.busy = false ∧
      writeLoc v s l = { s with args := s.args.set i (setWordOf s.args[i] k v) }) := by
  cases l with
  | ctrl =>
    cases h : v.getLsbD 0
    · exact .inr (.inr (.inl ⟨rfl, rfl, by simp only [writeLoc, writeCtrl, h, Bool.false_eq_true, if_false]⟩))
    · exact .inr (.inl ⟨rfl, rfl, by simp only [writeLoc, writeCtrl, h, if_true]⟩)
  | cmd =>
    cases h : s.status.busy
    · exact .inr (.inr (.inr (.inl ⟨rfl, rfl, by simp only [writeLoc, writeCmd, h, Bool.false_eq_true, if_false]⟩)))
    · exact .inr (.inr (.inr (.inr (.inl ⟨.inl rfl, rfl, by simp only [writeLoc, writeCmd, h, if_true]⟩))))
  | irqStatus =>
    cases h : v.getLsbD 0
    · exact .inl (by simp only [writeLoc, writeIrqStatus, h, Bool.false_eq_true, if_false])
    · exact .inr (.inr (.inr (.inr (.inr (.inl ⟨rfl, rfl, by simp only [writeLoc, writeIrqStatus, h, if_true]⟩)))))
  | arg i k =>
    cases h : s.status.busy
    · exact .inr (.inr (.inr (.inr (.inr (.inr
        ⟨i, k, rfl, rfl, by simp only [writeLoc, writeArg, h, Bool.false_eq_true, if_false]⟩)))))
    · exact .inr (.inr (.inr (.inr (.inl ⟨.inr ⟨i, k, rfl⟩, rfl, by simp only [writeLoc, writeArg, h, if_true]⟩))))
  | id => exact .inl rfl
  | caps => exact .inl rfl
  | status => exact .inl rfl
  | res => exact .inl rfl
  | rom => exact .inl rfl
  | table => exact .inl rfl
  | reserved => exact .inl rfl

/-- A write never touches the host, the schedule or the draw counter. -/
theorem writeLoc_frame (v : Word) (s : State) (l : Loc) :
    (writeLoc v s l).host = s.host ∧ (writeLoc v s l).turns = s.turns ∧ (writeLoc v s l).draws = s.draws := by
  rcases writeLoc_cases v s l with h | ⟨-, -, h⟩ | ⟨-, -, h⟩ | ⟨-, -, h⟩ | ⟨-, -, h⟩ | ⟨-, -, h⟩ | ⟨_, _, -, -, h⟩ <;>
    rw [h] <;> exact ⟨rfl, rfl, rfl⟩

/-- The response event: ignored, or the answer latched and accel_pending cleared (rules R43, R220). -/
theorem takeResponse_cases (code : BitVec 2) (s : State) :
    (s.accelPending = false ∧ takeResponse code s = s) ∨
    (s.accelPending = true ∧ takeResponse code s =
      { s with accelPending := false, seq := latchAnswer (responseOfCode code) s.seq, draws := s.draws + 1 }) := by
  unfold takeResponse
  cases s.accelPending <;> simp

end Sys2Proof.Laws
end

