-- ==== Sys2Proof/Laws/PerInstr.lean ====
section
/-! SUPPORT. Per-instruction statements about the commands as syntax: the encoding's round trip (rules R90, R91, R93). -/

namespace Sys2Proof.Laws

/-- The command is well formed, its word is well formed, and decoding its word gives the command back. -/
def Roundtrip.Statement (i : Instr) : Prop :=
  i.wf = true ∧ cmdWordWf (encode i) = true ∧ decode (encode i) = .ok i

theorem Roundtrip.inv : Roundtrip.Statement .inv := ⟨rfl, by decide, by decide⟩
theorem Roundtrip.modexp : Roundtrip.Statement .modexp := ⟨rfl, by decide, by decide⟩
theorem Roundtrip.validateKey : Roundtrip.Statement .validateKey := ⟨rfl, by decide, by decide⟩
theorem Roundtrip.checkSig : Roundtrip.Statement .checkSig := ⟨rfl, by decide, by decide⟩
theorem Roundtrip.jadd : Roundtrip.Statement .jadd := ⟨rfl, by decide, by decide⟩
theorem Roundtrip.jdbl : Roundtrip.Statement .jdbl := ⟨rfl, by decide, by decide⟩
theorem Roundtrip.toaffine : Roundtrip.Statement .toaffine := ⟨rfl, by decide, by decide⟩
theorem Roundtrip.buildTable : Roundtrip.Statement .buildTable := ⟨rfl, by decide, by decide⟩
theorem Roundtrip.shamir : Roundtrip.Statement .shamir := ⟨rfl, by decide, by decide⟩
theorem Roundtrip.verify : Roundtrip.Statement .verify := ⟨rfl, by decide, by decide⟩
theorem Roundtrip.verifyStrict : Roundtrip.Statement .verifyStrict := ⟨rfl, by decide, by decide⟩
theorem Roundtrip.recover : Roundtrip.Statement .recover := ⟨rfl, by decide, by decide⟩

end Sys2Proof.Laws
end

