-- ==== Sys2Proof/Laws/Step.lean ====
section
/-! SUPPORT. Everything one step can do, said once: the host's turn and the step are inverted here, and every invariant's proof
cites these (rules R5, R70, R98). -/

namespace Sys2Proof.Laws

open Sys2Proof.Machine

/-- What the host's turn can do: one write to the window, a host-local change, or the bus error. A read changes only the
host (rule R64). -/
inductive HostEffect (s : State) : Prop where
  | writes (size off : Nat) (v : Word) (line : ∃ e, s.host.program[s.host.pos]? = some (.write size off e))
      (ok : accessOk size off = true) (h : hostTurn s = .next (hostAdvance (writeLoc v s (locate off))))
  | localOnly (h' : HostAgent) (program : h'.program = s.host.program)
      (vars : varsWf s.host.vars = true → varsWf h'.vars = true) (h : hostTurn s = .next { s with host := h' })
  | busError (size off : Nat)
      (line : (∃ e, s.host.program[s.host.pos]? = some (.write size off e)) ∨
        ∃ x, s.host.program[s.host.pos]? = some (.read size x off))
      (bad : accessOk size off = false) (h : hostTurn s = .fault .busError)

theorem hostTurn_effect (s : State) : HostEffect s := by
  cases hl : s.host.program[s.host.pos]? with
  | none => exact .localOnly s.host rfl id (by simp only [hostTurn, hl])
  | some l =>
    have turn : hostTurn s = hostLine l s := by simp only [hostTurn, hl]
    cases l with
    | write size off e =>
      rcases memWrite_cases size off (BitVec.ofNat 32 (evalExpr s.host.vars e)) s with ⟨ok, h⟩ | ⟨bad, h⟩
      · exact .writes size off (BitVec.ofNat 32 (evalExpr s.host.vars e)) ⟨e, hl⟩ ok (by rw [turn]; simp only [hostLine, h])
      · exact .busError size off (.inl ⟨e, hl⟩) bad (by rw [turn]; simp only [hostLine, h])
    | read size x off =>
      rcases memRead_cases size off s with ⟨-, h⟩ | ⟨bad, h⟩
      · refine .localOnly
          { s.host with vars := varSet s.host.vars x (readLoc s (locate off)).toNat, pos := s.host.pos + 1 } rfl
          (fun hv => varSet_wf hv _ _) ?_
        rw [turn]; simp only [hostLine, h]; rfl
      · exact .busError size off (.inr ⟨x, hl⟩) bad (by rw [turn]; simp only [hostLine, h])
    | bnz x mask name =>
      by_cases h : varGet s.host.vars x &&& mask ≠ 0
      · exact .localOnly
          { s.host with pos := (labelPos name s.host.program).getD s.host.program.length } rfl id
          (by rw [turn]; simp only [hostLine, if_pos h]; rfl)
      · exact .localOnly { s.host with pos := s.host.pos + 1 } rfl id
          (by rw [turn]; simp only [hostLine, if_neg h]; rfl)
    | bz x mask name =>
      by_cases h : varGet s.host.vars x &&& mask = 0
      · exact .localOnly
          { s.host with pos := (labelPos name s.host.program).getD s.host.program.length } rfl id
          (by rw [turn]; simp only [hostLine, if_pos h]; rfl)
      · exact .localOnly { s.host with pos := s.host.pos + 1 } rfl id
          (by rw [turn]; simp only [hostLine, if_neg h]; rfl)
    | label name => exact .localOnly { s.host with pos := s.host.pos + 1 } rfl id (by rw [turn]; rfl)
    | assign x e =>
      exact .localOnly { s.host with vars := varSet s.host.vars x (evalExpr s.host.vars e), pos := s.host.pos + 1 } rfl
        (fun hv => varSet_wf hv _ _) (by rw [turn]; rfl)
    | waitIrq =>
      cases h : irqOut s
      · exact .localOnly s.host rfl id (by rw [turn]; simp only [hostLine, h, Bool.false_eq_true, if_false])
      · exact .localOnly { s.host with pos := s.host.pos + 1 } rfl id
          (by rw [turn]; simp only [hostLine, h, if_true]; rfl)

/-- One step is its agent's turn on the state with the event taken (rule R70). -/
theorem step_cases (s : State) :
    (nextTurn s = .host ∧ step s = hostTurn (popTurn s)) ∨
    (nextTurn s = .sequencer ∧ step s = sequencerTurn (popTurn s)) ∨
    (∃ code, nextTurn s = .accelerator code ∧ step s = .next (takeResponse code (popTurn s))) ∨
    (nextTurn s = .hardReset ∧ step s = .next (resetBlock (popTurn s))) := by
  unfold step
  cases h : nextTurn s with
  | host => exact .inl ⟨rfl, rfl⟩
  | sequencer => exact .inr (.inl ⟨rfl, rfl⟩)
  | accelerator code => exact .inr (.inr (.inl ⟨code, rfl, rfl⟩))
  | hardReset => exact .inr (.inr (.inr ⟨rfl, rfl⟩))

/-- The sequencer's turn: nothing in IDLE, the ILLEGAL completion, or the running command's step (rules R40, R242). -/
theorem sequencerTurn_cases (s : State) :
    (s.seq = .idle ∧ sequencerTurn s = .next s) ∨
    ((∃ en, s.seq = .run .illegal en) ∧ sequencerTurn s = .next (completeIllegal s)) ∨
    (∃ i, ((∃ en, s.seq = .run (.command i) en) ∨ ∃ p a, s.seq = .waitAccel i p a) ∧ sequencerTurn s = exec i s) := by
  unfold sequencerTurn runningOp
  cases h : s.seq with
  | idle => exact .inl ⟨rfl, rfl⟩
  | run op en =>
    cases op with
    | illegal => exact .inr (.inl ⟨⟨en, rfl⟩, rfl⟩)
    | command i => exact .inr (.inr ⟨i, .inl ⟨en, rfl⟩, rfl⟩)
  | waitAccel i p a => exact .inr (.inr ⟨i, .inr ⟨p, a, rfl⟩, rfl⟩)

/-- An accepted legal word runs its command (rules R91, R95). -/
theorem opOfWord_of_decode {w : Word} {i : Instr} (h : decode w = .ok i) : opOfWord w = .command i := by
  simp only [opOfWord, h]

/-- An accepted ILLEGAL word runs the ILLEGAL completion (rules R91, R95). -/
theorem opOfWord_of_illegal {w : Word} {e : IllegalWord} (h : decode w = .error e) : opOfWord w = .illegal := by
  simp only [opOfWord, h]

end Sys2Proof.Laws
end

