-- ==== Sys2Proof/Laws/Words.lean ====
section
/-! SUPPORT. The eight words of a 256-bit register (rule R61): reading a word after writing one. -/

namespace Sys2Proof.Laws

open Sys2Proof.Machine

/-- Word k as a quotient: bits [255 - 32k : 224 - 32k] (rules R10, R61). -/
theorem wordOf_toNat (v : U256) (k : Fin 8) : (wordOf v k).toNat = v.toNat / 2 ^ (224 - 32 * k.val) % 2 ^ 32 := by
  simp [wordOf, BitVec.extractLsb'_toNat, Nat.shiftRight_eq_div_pow]

theorem wordOf_getLsbD (v : U256) (k : Fin 8) (i : Nat) :
    (wordOf v k).getLsbD i = (decide (i < 32) && v.getLsbD (224 - 32 * k.val + i)) := by
  simp [wordOf]

theorem setWordOf_getLsbD (v : U256) (k : Fin 8) (w : Word) (i : Nat) (hi : i < 256) :
    (setWordOf v k w).getLsbD i =
      if 224 - 32 * k.val ≤ i ∧ i < 256 - 32 * k.val then w.getLsbD (i - (224 - 32 * k.val)) else v.getLsbD i := by
  have ones : ∀ j : Nat, (0xFFFFFFFF : U256).getLsbD j = decide (j < 32) := by
    intro j
    by_cases hj : j < 32
    · interval_cases j <;> rfl
    · have h : (0xFFFFFFFF : U256) = (BitVec.allOnes 32).setWidth 256 := rfl
      rw [h, BitVec.getLsbD_setWidth, BitVec.getLsbD_allOnes]
      simp [hj]
  have hk := k.isLt
  simp only [setWordOf, BitVec.getLsbD_or, BitVec.getLsbD_and, BitVec.getLsbD_not, BitVec.getLsbD_shiftLeft,
    BitVec.getLsbD_setWidth, ones]
  by_cases h1 : 224 - 32 * k.val ≤ i
  · by_cases h2 : i < 256 - 32 * k.val
    · have h3 : i - (224 - 32 * k.val) < 32 := by omega
      have h4 : i - (224 - 32 * k.val) < 256 := by omega
      have h5 : ¬ i < 224 - 32 * k.val := by omega
      simp [h1, h2, h3, h4, h5, hi]
    · have h3 : ¬ i - (224 - 32 * k.val) < 32 := by omega
      have h6 : w.getLsbD (i - (224 - 32 * k.val)) = false := BitVec.getLsbD_of_ge _ _ (by omega)
      simp [h2, h3, h6, hi]
  · have h5 : i < 224 - 32 * k.val := by omega
    simp [h1, h5, hi]

/-- The word written is the word read. -/
theorem wordOf_setWordOf_same (v : U256) (k : Fin 8) (w : Word) : wordOf (setWordOf v k w) k = w := by
  have hk := k.isLt
  apply BitVec.eq_of_getLsbD_eq
  intro i hi
  rw [wordOf_getLsbD, setWordOf_getLsbD _ _ _ _ (by omega), if_pos (by omega)]
  simp [hi]

/-- The other seven words are unchanged. -/
theorem wordOf_setWordOf_ne (v : U256) {j k : Fin 8} (h : j ≠ k) (w : Word) :
    wordOf (setWordOf v k w) j = wordOf v j := by
  have hj := j.isLt
  have hk := k.isLt
  have hne : j.val ≠ k.val := fun e => h (Fin.ext e)
  apply BitVec.eq_of_getLsbD_eq
  intro i hi
  rw [wordOf_getLsbD, wordOf_getLsbD, setWordOf_getLsbD _ _ _ _ (by omega), if_neg (by omega)]

/-- A 256-bit value is determined by its eight words. -/
theorem eq_of_wordOf_eq {v w : U256} (h : ∀ k, wordOf v k = wordOf w k) : v = w := by
  apply BitVec.eq_of_getLsbD_eq
  intro i hi
  have hk := congrArg (·.getLsbD (i % 32)) (h ⟨7 - i / 32, by omega⟩)
  simp only [wordOf_getLsbD] at hk
  have e : 224 - 32 * (7 - i / 32) + i % 32 = i := by omega
  rw [e, decide_eq_true (Nat.mod_lt i (by decide))] at hk
  simpa using hk

end Sys2Proof.Laws
end

