-- ==== Sys2Proof/Tests/Slice0.lean ====
section
/-! SUPPORT. The model's own tests: ill-formed terms, words written out bit by bit, one-step vectors of the spec's test-vector
file (each named by its id), and for every obligation with hypotheses a state and operands that meet them. -/

namespace Sys2Proof.Tests

open Sys2Proof.Machine Sys2Proof.Laws

-- One proof at a time: a hundred kernel evaluations at once would each hold a thread's stack.
set_option Elab.async false

/-! Helpers. -/

/-- Reset with ARG0, ARG1, ... written (the missing ones 0). -/
def withArgs (a : List Nat) : State :=
  { State.reset with args := Vector.ofFn fun i => BitVec.ofNat 256 (a.getD i 0) }

/-- Reset, the ARG registers written, and the command's word accepted. -/
def launched (i : Instr) (a : List Nat) : State := accept (encode i) (withArgs a)

/-- The test on an outcome that is a next state. -/
def holdsNext (o : Host.Outcome State Fault Refusal) (p : State → Bool) : Bool :=
  match o with
  | .next t => p t
  | .fault _ => false
  | .refused _ => false

/-- The RES values and the whole STATUS word, as the vectors give them. -/
def answers (r0 r1 r2 status : Nat) (t : State) : Bool :=
  t.res == #v[BitVec.ofNat 256 r0, BitVec.ofNat 256 r1, BitVec.ofNat 256 r2] &&
    (statusWord t.status).toNat == status && t.doneIrq && t.seq == .idle

/-- One command word run as the next step from reset with these operands. -/
def runs (w : Nat) (a : List Nat) (p : State → Bool) : Bool := holdsNext (step ((withArgs a).withFetchWord 32 w)) p

/-- The public key of the RFC 6979 example. -/
def qx : Nat := 0x60FED4BA255A9D31C961EB74C6356D68C049B8923B61FA6CE669622E60F29FB6
def qy : Nat := 0x7903FE1008B8BC99A41AE9E95628BC64F2F1B20C2D7E9F5177A3C294D4462299
/-- Its hash value, r and low-s. -/
def rfcH : Nat := 0xAF2BDBE1AA9B6EC1E2ADE1D694F41FC71A831D0268E9891562113D8A62ADD1BF
def rfcR : Nat := 0xEFD48B2AACB6A8FD1140DD9CD45E81D69D2C877B56AAF991C34D0EA84EAF3716
def rfcS : Nat := 0x0834E36AD29A83BF2BC9385E491D6099C8FDF9D1ED67AA7EA5F51F93782857A9
/-- The operands of V-VF-1, and of V-VF-2 with the published high s. -/
def vf1 : List Nat := [rfcH, rfcR, rfcS, qx, qy]
def vf2 : List Nat := [rfcH, rfcR, 0xF7CB1C942D657C41D436C7A1B6E29F65F3E900DBB9AFF4064DC4AB2F843ACDA8, qx, qy]

/-- 2G in Jacobian form, as V-PT-1 gives it. -/
def g2 : Jac :=
  { x := 0x9A978F59ACD1B5AD570E7D52DCFCDE43804B42274F61DDCF1E7D848391D6C70F
    y := 0x4126885E7F786AF905338238E5346D5FE77FC46388668BD0FD59BE3190D2F5D1
    z := 0x9FC685C5FC34FF371DCFD694F81F3C2C579C66AED662BD9D976C80D06F7EA3EA }

/-- A state with ARG0, ARG1 written and the table of the RFC key built. -/
def withTable (a : List Nat) : State :=
  { withArgs a with
    status := { State.reset.status with tableValid := true }
    table := storeTable (build qx qy) }

/-- A waiting VERIFY or VERIFY_STRICT with the operands of V-VF-1. -/
def waiting (op : Instr) (answer : Option AccelResponse) : State :=
  { launched op vf1 with seq := .waitAccel op (requestPayload (withArgs vf1)) answer, accelPending := answer.isNone }

/-- A state whose host has this program. -/
def withProgram (p : List HostLine) : State := { State.reset with host := { program := p, pos := 0, vars := [] } }

/-! Ill-formed terms, one per check. -/

theorem test_word_checks :
    cmdWordWf 0x00000011 = false ∧ cmdWordWf 0x00000000 = false ∧ cmdWordWf 0x0000000D = false ∧
    cmdWordWf 0x0000000C = true := by decide

theorem test_access_checks :
    accessOk 2 0x100 = false ∧ accessOk 4 0x102 = false ∧ accessOk 4 0x1000 = false ∧ accessOk 4 0xFFC = true := by decide

theorem test_expression_checks :
    exprWf (.word (.var 0) 8) = false ∧ exprWf (.word (.var 0) 7) = true ∧
    writeValueWf (.lit (2 ^ 32)) = false ∧ writeValueWf (.lit (2 ^ 32 - 1)) = true := by decide

theorem test_program_checks :
    programWf [.bz 0 2 9] = false ∧ programWf [.label 9, .label 9] = false ∧ programWf [.write 4 0x102 (.lit 1)] = false ∧
    programWf [.read 1 0 0x010] = false ∧ programWf (cmdLines .inv ++ waitLines 9 0 ++ ackLines) = true := by decide

theorem test_variable_checks :
    varsWf [(2, 1), (1, 1)] = false ∧ varsWf [(1, 1), (1, 2)] = false ∧ varsWf [(1, 0)] = false ∧
    varsWf [(1, 1), (2, 1)] = true := by decide

/-! Words, written out from rules R90 and R93. -/

theorem test_words_of_arithmetic :
    decode 0b00000000000000000000000000000001 = .ok .inv ∧ decode 0b00000000000000000000000000000010 = .ok .modexp ∧
    decode 0b00000000000000000000000000000011 = .ok .validateKey ∧
    decode 0b00000000000000000000000000000100 = .ok .checkSig := by decide

theorem test_words_of_points_and_tables :
    decode 0b00000000000000000000000000000101 = .ok .jadd ∧ decode 0b00000000000000000000000000000110 = .ok .jdbl ∧
    decode 0b00000000000000000000000000000111 = .ok .toaffine ∧
    decode 0b00000000000000000000000000001000 = .ok .buildTable ∧
    decode 0b00000000000000000000000000001001 = .ok .shamir := by decide

theorem test_words_of_verification :
    decode 0b00000000000000000000000000001010 = .ok .verify ∧
    decode 0b00000000000000000000000000001011 = .ok .verifyStrict ∧
    decode 0b00000000000000000000000000001100 = .ok .recover := by decide

theorem test_illegal_words :
    decode 0x00000000 = .error .unusedOpcode ∧ decode 0x0000000D = .error .unusedOpcode ∧
    decode 0x0000000E = .error .unusedOpcode ∧ decode 0x0000000F = .error .unusedOpcode ∧
    decode 0x00000011 = .error .reservedBits ∧ decode 0x8000000A = .error .reservedBits ∧
    decode 0x80000000 = .error .reservedBits := by decide

theorem test_table_words :
    decodeTableWord 32 0x00000009 = some .shamir ∧ decodeTableWord 32 0x00000019 = none ∧
    decodeTableWord 8 0x0C = some .recover := by decide

/-! Command vectors. -/

/-- V-ENC-4: the operands and CMD are unchanged. -/
theorem test_illegal_completion :
    runs 0x11 [3, 7] (fun t => answers 0 0 0 0x12 t && t.cmd == 0x11 && t.args == (withArgs [3, 7]).args) = true := by
  decide +kernel

/-- V-INV-13. -/
theorem test_inv_reduces_and_inverts :
    runs 0x1 [2 ^ 255, 0xFFFFFFFF00000000FFFFFFFFFFFFFFFFBCE6FAADA7179E84F3B9CAC2FC632551]
      (answers 0xC1A0CC66920B83D20FF16C083CC0EE4B75BDE7C486ACDF5F9C3791EF3832F8F2 0 0 0x2) = true := by decide +kernel

/-- V-INV-11, V-INV-5, V-INV-3. -/
theorem test_inv_corners :
    runs 0x1 [10, 12] (answers 4 0 0 0x2) = true ∧ runs 0x1 [0, 0] (answers 0 0 0 0x42) = true ∧
    runs 0x1 [7, 7] (answers 0 0 0 0x32) = true := by decide +kernel

/-- V-MX-8. -/
theorem test_modexp_full_width :
    runs 0x2 [2 ^ 256 - 1, 2 ^ 256 - 1, 0xFFFFFFFF00000001000000000000000000000000FFFFFFFFFFFFFFFFFFFFFFFF]
      (answers 0xC3CA18B1D18B2302CE1D2412CD7A3D3F9D6D589461AF6F2ED93C54875207FDB9 0 0 0x2) = true := by decide +kernel

/-- V-MX-2, V-MX-3, V-MX-4. -/
theorem test_modexp_corners :
    runs 0x2 [0, 0, 7] (answers 1 0 0 0x2) = true ∧ runs 0x2 [0, 0, 1] (answers 0 0 0 0x2) = true ∧
    runs 0x2 [5, 3, 0] (answers 0 0 0 0x42) = true := by decide +kernel

/-- V-VK-6, V-VK-2. -/
theorem test_validate_key_equation :
    runs 0x3 [0, 0x66485C780E2F83D72433BD5D84A06BB6541C2AF31DAE871728BF856A174F93F4] (answers 1 0 0 0x2) = true ∧
    runs 0x3 [Curve.GX, 0x4FE342E2FE1A7F9B8EE7EB4A7C0F9E162BCE33576B315ECECBB6406837BF51F6] (answers 0 0 0 0x2) = true := by
  decide +kernel

/-- V-VK-7. -/
theorem test_validate_key_range :
    runs 0x3 [0xFFFFFFFF00000001000000000000000000000000FFFFFFFFFFFFFFFFFFFFFFFF,
      0x66485C780E2F83D72433BD5D84A06BB6541C2AF31DAE871728BF856A174F93F4] (answers 0 0 0 0x2) = true := by decide +kernel

/-- V-CS-4. -/
theorem test_check_sig_maxima :
    runs 0x4 [0xFFFFFFFF00000000FFFFFFFFFFFFFFFFBCE6FAADA7179E84F3B9CAC2FC632550,
      0x7FFFFFFF800000007FFFFFFFFFFFFFFFDE737D56D38BCF4279DCE5617E3192A8] (answers 1 0 0 0x2) = true := by decide +kernel

/-- V-CS-5, V-CS-6. -/
theorem test_check_sig_bounds :
    runs 0x4 [0xFFFFFFFF00000000FFFFFFFFFFFFFFFFBCE6FAADA7179E84F3B9CAC2FC632551, 1] (answers 0 0 0 0x2) = true ∧
    runs 0x4 [1, 0x7FFFFFFF800000007FFFFFFFFFFFFFFFDE737D56D38BCF4279DCE5617E3192A9] (answers 0 0 0 0x2) = true := by
  decide +kernel

/-- V-PT-4. -/
theorem test_jadd_g_2g :
    runs 0x5 [Curve.GX, Curve.GY, 1, g2.x, g2.y, g2.z]
      (answers 0x0EC88440C8B00A9E572BF1BCEB7D0C5906BD65990A9B7081130BD72E2C136CA0
        0x3F43881DCC61766FFE07171330863C080B4422E506909BB9E6642BDCFD959F29
        0x22D834AC5CE2E092FBE5330EEFC21FA45F5A1229B48C72AE01CC6821F1C03CF9 0x2) = true := by decide +kernel

/-- V-PT-7, V-PT-16. -/
theorem test_jadd_degenerate_and_range :
    runs 0x5 [Curve.GX, Curve.GY, 1, Curve.GX, 0xB01CBD1C01E58065711814B583F061E9D431CCA994CEA1313449BF97C840AE0A, 1]
      (answers 0x577D756243D1EEB5085244E65E4DA7F9262A4089904AD782FB74B3F0870FB645
        0x8D761FD160E5BB67AFE5854016BB02B6F80BAF8D4B7FCE3C852842092B408CE3 0 0x202) = true ∧
    runs 0x5 [Curve.GX, Curve.GY, 1, Curve.GX, Curve.GY, 0xFFFFFFFF00000001000000000000000000000000FFFFFFFFFFFFFFFFFFFFFFFF]
      (answers 0 0 0 0x22) = true := by decide +kernel

/-- V-PT-2. -/
theorem test_jdbl_scaled :
    runs 0x6 [0xAC5F47CC84B1091EE2F39B958E9103C9DC0DF603B7ACCE83D284E51762630A59,
        0x7F1A1719F0D3FCDA773F5A53E07CF0B15E719AB9598AF6765DB20341BDFA8FAA, 2]
      (answers 0x978F5A46D1B5ACBD0E7D52DCFCDE43804B4226B561DDCF1E7D848391D6C70F9A
        0x6885EC0986AF8C4138238E5346D5FE77FC46347468BD0FD59BE3190D2F5D1412
        0xFC685C68C34FF368DCFD694F81F3C2C579C66AE4662BD9D976C80D06F7EA3EA9 0x2) = true := by decide +kernel

/-- V-PT-3. -/
theorem test_jdbl_identity :
    runs 0x6 [5, 7, 0]
      (answers 0xE51 0xFFFFFFFF00000001000000000000000000000000FFFFFFFFFFFFFFFFFFFCA258 0 0x202) = true := by decide +kernel

/-- V-PT-15. -/
theorem test_toaffine_3g :
    runs 0x7 [0x0EC88440C8B00A9E572BF1BCEB7D0C5906BD65990A9B7081130BD72E2C136CA0,
        0x3F43881DCC61766FFE07171330863C080B4422E506909BB9E6642BDCFD959F29,
        0x22D834AC5CE2E092FBE5330EEFC21FA45F5A1229B48C72AE01CC6821F1C03CF9]
      (answers 0x5ECBE4D1A6330A44C8F7EF951D4BF165E6C6B721EFADA985FB41661BC6E7FD6C
        0x8734640C4998FF7E374B06CE1A64A2ECD82AB036384FB83D9A79B127A27D5032 0 0x2) = true := by decide +kernel

/-- V-PT-13, V-PT-18. -/
theorem test_toaffine_sentinel_and_range :
    runs 0x7 [1, 2, 0] (answers 0 0 0 0x2) = true ∧
    runs 0x7 [Curve.GX, Curve.GY, 0xFFFFFFFF00000001000000000000000000000000FFFFFFFFFFFFFFFFFFFFFFFF]
      (answers 0 0 0 0x22) = true := by decide +kernel

/-- V-TB-1, entry 13. -/
theorem test_build_table_entry :
    runs 0x8 [qx, qy] (fun t => answers 0 0 0 0x6 t && t.table[13] ==
      { x := 0x64DADD26EFEA387FE45D5B053E24F6A13680C0EE9CDC39E36741CAB8DA8E37A4
        y := 0x89E2B15ED4E679EB4E98B481C1E558327B9E2CF019EFACAD1CBA75A68FDCE52C
        z := 0x51DD5A2C47A62A1F05F781353732119C3E51EEAF97E8F34016690DEE4A29D403 }) = true := by decide +kernel

/-- V-TB-4, V-TB-2. -/
theorem test_build_table_degenerate_and_range :
    runs 0x8 [Curve.GX, Curve.GY] (fun t => answers 0 0 0 0x206 t && t.table[10] == { x := 0, y := 0, z := 0 }) = true ∧
    runs 0x8 [Curve.P, qy] (fun t => answers 0 0 0 0x22 t && t.table == State.reset.table) = true := by decide +kernel

/-- V-SM-5, V-SM-0. -/
theorem test_shamir_scales_the_key :
    holdsNext (step ((withTable [0, 2]).withFetchWord 32 0x9))
      (answers 0xED3687F8BD593C3D260EAD3CBF2D4AC102E1E845E1F58DA14343C20E6B1A3D4B
        0x37856C506E12C97117BCC59642D099B6A9CD1DEE43186D30A1645EFFCAB20DF4 0 0x6) = true ∧
    runs 0x9 [1, 0] (answers 0 0 0 0x52) = true := by decide +kernel

/-- V-SM-9: not the group law's 6Q. -/
theorem test_shamir_full_width_scalar :
    holdsNext (step ((withTable [0, 0xFFFFFFFF00000000FFFFFFFFFFFFFFFFBCE6FAADA7179E84F3B9CAC2FC632557]).withFetchWord 32 0x9))
      (answers 0 0 0 0x206) = true := by decide +kernel

/-- V-VF-1, V-VF-2 (without an accelerator, or with ACCEL_EN = 0). -/
theorem test_verify_low_and_high_s :
    runs 0xA vf1 (answers 1 0 0 0x6) = true ∧ runs 0xA vf2 (answers 0 0 0 0x2) = true := by decide +kernel

/-- V-VF-12, V-VF-14. -/
theorem test_verify_answered :
    holdsNext (step (waiting .verify (some (.valid false)))) (answers 0 0 0 0x102) = true ∧
    holdsNext (step (waiting .verify (some .reserved))) (answers 0 0 0 0x72) = true := by decide +kernel

/-- V-VS-1, V-VS-2: with no accelerator present. -/
theorem test_verify_strict_without_accelerator :
    answers 0 0 0 0x62 (strictLaunched false (launched .verifyStrict vf1)) = true ∧
    answers 0 0 0 0x2 (strictLaunched false (launched .verifyStrict vf2)) = true := by decide +kernel

/-- V-VS-3, V-VS-4. -/
theorem test_verify_strict_answered :
    holdsNext (step (waiting .verifyStrict (some (.valid true)))) (answers 1 0 0 0x102) = true ∧
    holdsNext (step (waiting .verifyStrict (some .unsupported))) (answers 0 0 0 0x62) = true := by decide +kernel

/-- V-RC-1. -/
theorem test_recover_the_key : runs 0xC [rfcH, 1, rfcR, rfcS] (answers qx qy 0 0x6) = true := by decide +kernel

/-- V-RC-3, V-RC-4. -/
theorem test_recover_sentinels :
    runs 0xC [rfcH, 2, rfcR, rfcS] (answers 0 0 0 0x2) = true ∧ runs 0xC [rfcH, 1, 1, 1] (answers 0 0 0 0x2) = true := by
  decide +kernel

/-! Bus, reset and host. -/

/-- V-BUS-4. -/
theorem test_argument_words :
    (memWrite 4 0x11C 0x9ABCDEF0 (writeLoc 0x12345678 State.reset (locate 0x100))).toOption.map (·.args[0]) =
      some 0x123456780000000000000000000000000000000000000000000000009ABCDEF0 := by decide +kernel

/-- V-BUS-3. -/
theorem test_rom_words :
    memRead 4 0x3C0 State.reset = .ok 0x7FFFFFFF ∧ memRead 4 0x3DC State.reset = .ok 0x7E3192A8 := by decide +kernel

/-- V-BUS-7, before the completion: both writes are lost, RES reads 0. -/
theorem test_writes_while_busy :
    (memWrite 4 0x11C 9 (launched .inv [3, 7])).toOption.map (fun t => (t.args[0], t.status.busyWrite)) = some (3, true) ∧
    (memWrite 4 0x00C 2 (launched .inv [3, 7])).toOption.map (fun t => (t.cmd, t.status.busyWrite)) = some (1, true) ∧
    memRead 4 0x010 (launched .inv [3, 7]) = .ok 1 ∧ memRead 4 0x21C (launched .inv [3, 7]) = .ok 0 := by decide +kernel

/-- V-BUS-8. -/
theorem test_ctrl_writes :
    ((memWrite 4 0x008 6 State.reset).toOption.map fun t => (memRead 4 0x008 t).toOption) = some (some 6) ∧
    ((memWrite 4 0x008 7 (withTable [1])).toOption.map fun t => t == State.reset) = some true := by decide +kernel

/-- V-BUS-6: a fault of the host agent. -/
theorem test_bus_error :
    (match step (withProgram [.read 2 0 0x100]) with
    | .fault .busError => true
    | .next _ => false
    | .refused _ => false) = true := by decide +kernel

/-- V-RST-4's late response. -/
theorem test_late_response : takeResponse 0b10 (resetBlock (waiting .verify none)) = resetBlock (waiting .verify none) := by
  decide +kernel

/-- Rule R99's `rd256`, after its eight reads: the assignment gives the register's value. -/
theorem test_rd256_assembles :
    (rd256 20 0x200 0).length = 9 ∧
    ((rd256 20 0x200 0).getLast?.map fun
      | .assign x e => (x, evalExpr [(0, 0x12345678), (7, 0x9ABCDEF0)] e)
      | _ => (0, 0)) = some (20, 0x123456780000000000000000000000000000000000000000000000009ABCDEF0) := by decide +kernel

/-! Witnesses: for each obligation with hypotheses, a concrete state and operands that meet them, clause by clause. -/

theorem test_witness_EveryWordDecodesAndIllegalCompletes :
    (0x00000010 : Word).toNat / 16 ≠ 0 ∧ (0xFFFFFFFF : Word).toNat / 16 ≠ 0 ∧
    ((0x0000000F : Word).toNat / 16 = 0 ∧ (0x0000000F : Word).toNat % 16 = 0xF) ∧
    ((0x0000000C : Word).toNat / 16 = 0 ∧ (0x0000000C : Word).toNat % 16 = opcodeOf .recover) ∧
    State.reset.status.busy = false ∧ (accept 0x0000000D State.reset).seq = .run .illegal false := by decide +kernel

theorem test_witness_StepRunsTheDecodedCommand :
    decode 0x00000001 = .ok .inv ∧
    (nextTurn (launched .inv [3, 7]) = .sequencer ∧ (launched .inv [3, 7]).seq = .run (.command .inv) false) ∧
    (nextTurn (waiting .verify (some .reserved)) = .sequencer ∧
      (waiting .verify (some .reserved)).seq = .waitAccel .verify (requestPayload (withArgs vf1)) (some .reserved)) := by
  decide +kernel

theorem test_witness_WindowLaysOutRegistersBigEndian : (withTable [1]).status.busy = false := by decide

theorem test_witness_ResultsReadZeroWhileBusy :
    (launched .inv [3, 7]).status.busy = true ∧ (0x25C % 4 = 0 ∧ 0x200 ≤ 0x25C ∧ 0x25C ≤ 0x25F) ∧
    (0x9FC % 4 = 0 ∧ 0x400 ≤ 0x9FC ∧ 0x9FC ≤ 0x9FF) ∧
    (let s : State := { launched .inv [3, 7] with host := { program := [.read 4 1 0x9FC], pos := 0, vars := [] } }
     s.status.busy = true ∧ s.host.program[s.host.pos]? = some (.read 4 1 0x9FC)) := by decide

theorem test_witness_WindowWriteEffects :
    (0x00000007 : Word).getLsbD 0 = true ∧ (0x00000006 : Word).getLsbD 0 = false ∧ State.reset.status.busy = false ∧
    (launched .inv [3, 7]).status.busy = true ∧
    (0x0FC % 4 = 0 ∧ 0x0FC < 0x1000 ∧ ¬(0x100 ≤ 0x0FC ∧ 0x0FC < 0x1C0)) ∧
    (0x1C0 % 4 = 0 ∧ 0x1C0 < 0x1000 ∧ ¬(0x100 ≤ 0x1C0 ∧ 0x1C0 < 0x1C0)) ∧ (0xFFC % 4 = 0 ∧ 0xFFC < 0x1000) := by decide

theorem test_witness_RomHoldsTheCurveConstants : Curve.P - 1 < (romValue 0).toNat := by decide +kernel

theorem test_witness_BusErrorExactlyOnMalformedAccesses :
    (withProgram [.write 4 0xFFC (.lit 1)]).host.program[(withProgram [.write 4 0xFFC (.lit 1)]).host.pos]? =
      some (.write 4 0xFFC (.lit 1)) ∧
    (withProgram [.read 2 0 0x100]).host.program[(withProgram [.read 2 0 0x100]).host.pos]? = some (.read 2 0 0x100) := by
  decide

theorem test_witness_BothResetsResetTheBlock :
    (0x00000007 : Word).getLsbD 0 = true ∧ nextTurn { withTable [1] with turns := [.hardReset] } = .hardReset := by
  decide

theorem test_witness_ResetReadsZero :
    BlockIsReset State.reset ∧
    (0x008 % 4 = 0 ∧ 0x008 ≠ 0x000 ∧ 0x008 ≠ 0x004) ∧ (0x2FC % 4 = 0 ∧ ¬(0x300 ≤ 0x2FC ∧ 0x2FC < 0x3E0)) ∧
    (0x3E0 % 4 = 0 ∧ 0x3E0 < 0x1000 ∧ ¬(0x300 ≤ 0x3E0 ∧ 0x3E0 < 0x3E0)) := ⟨rfl, by decide⟩

theorem test_witness_AcceptanceClearsTheFlags : State.reset.status.busy = false := rfl

theorem test_witness_InvWritesTheFermatPower :
    argNat (withArgs [5]) 1 = 0 ∧
    (argNat (withArgs [7, 7]) 1 ≠ 0 ∧ argNat (withArgs [7, 7]) 0 % argNat (withArgs [7, 7]) 1 = 0) ∧
    (argNat (withArgs [5, 12]) 1 ≠ 0 ∧ argNat (withArgs [5, 12]) 0 % argNat (withArgs [5, 12]) 1 ≠ 0) := by decide +kernel

theorem test_witness_InvInvertsForPrimeModulus :
    (argNat (withArgs [3, 7]) 1).Prime ∧ argNat (withArgs [3, 7]) 0 % argNat (withArgs [3, 7]) 1 ≠ 0 ∧
    5 < argNat (withArgs [3, 7]) 1 ∧ argNat (withArgs [3, 7]) 0 * 5 % argNat (withArgs [3, 7]) 1 = 1 := by
  have h : argNat (withArgs [3, 7]) 1 = 7 := by decide +kernel
  exact ⟨by rw [h]; norm_num, by decide +kernel, by decide +kernel, by decide +kernel⟩

theorem test_witness_ModexpWritesTheExactPower :
    argNat (withArgs [5, 3]) 2 = 0 ∧ argNat (withArgs [0, 0, 1]) 2 ≠ 0 := by decide +kernel

/-- V-MX-9's operands: GX³ + A·GX + B is the square of GY. -/
theorem test_witness_ModexpTakesSquareRoots :
    let s := withArgs [0x55DF5D5850F47BAD82149139979369FE498A9022A412B5E0BEDD2CFC21C3ED91,
      0x3FFFFFFFC0000000400000000000000000000000400000000000000000000000,
      0xFFFFFFFF00000001000000000000000000000000FFFFFFFFFFFFFFFFFFFFFFFF]
    argNat s 1 = (Curve.P + 1) / 4 ∧ argNat s 2 = Curve.P ∧ IsSquare (argNat s 0 : ZMod Curve.P) := by
  refine ⟨by decide +kernel, by decide +kernel, (Curve.GY : ZMod Curve.P), ?_⟩
  rw [← Nat.cast_mul, ZMod.natCast_eq_natCast_iff]
  decide +kernel

theorem test_witness_ValidateKeyDecidesTheCurveEquation : validKey Curve.GX Curve.GY = true := by decide +kernel

theorem test_witness_CheckSigAcceptsExactlyLowS : properSig (Curve.N - 1) Curve.halfN = true := by decide +kernel

theorem test_witness_PointOperandsOutOfRangeAreRejected :
    Curve.P ≤ argNat (withArgs [0, 0, 0, 0, 0, Curve.P]) 5 ∧
    ((2 : Fin 6) < 3 ∧ Curve.P ≤ argNat (withArgs [0, 0, Curve.P]) 2) := by decide +kernel

theorem test_witness_JaddEvaluatesTheFormulas :
    ∀ i : Fin 6, argNat (withArgs [Curve.GX, Curve.GY, Curve.P - 1, g2.x, g2.y, g2.z]) i < Curve.P := by decide +kernel

theorem test_witness_JaddDegenerateCorners :
    let p : Jac := { x := Curve.GX, y := Curve.GY, z := 1 }
    (jacIdentity.z = 0 ∨ p.z = 0) ∧ p.x < Curve.P ∧ p.y < Curve.P ∧ p.z < Curve.P := by decide +kernel

theorem test_witness_JaddSwappedOperandsNegate :
    let s := withArgs [Curve.GX, Curve.GY, 1, g2.x, g2.y, g2.z]
    let s' := withArgs [g2.x, g2.y, g2.z, Curve.GX, Curve.GY, 1]
    (∀ i : Fin 6, argNat s i < Curve.P) ∧ s'.args[0] = s.args[3] ∧ s'.args[1] = s.args[4] ∧ s'.args[2] = s.args[5] ∧
      s'.args[3] = s.args[0] ∧ s'.args[4] = s.args[1] ∧ s'.args[5] = s.args[2] := by decide +kernel

theorem test_witness_JdblEvaluatesTheFormulas :
    ∀ i : Fin 6, i < 3 → argNat (withArgs [5, 7, Curve.P - 1, Curve.P]) i < Curve.P := by decide +kernel

/-- V-PT-2's operand: G scaled by 2. -/
theorem test_witness_JdblRespectsScaling :
    let p : Jac := { x := Curve.GX, y := Curve.GY, z := 1 }
    let q : Jac := { x := 4 * Curve.GX, y := 8 * Curve.GY, z := 2 }
    (q.x : ZMod Curve.P) = (2 : Nat) ^ 2 * p.x ∧ (q.y : ZMod Curve.P) = (2 : Nat) ^ 3 * p.y ∧
      (q.z : ZMod Curve.P) = (2 : Nat) * p.z := by
  refine ⟨?_, ?_, ?_⟩ <;> push_cast <;> ring

theorem test_witness_ToaffineDividesByPowersOfZ :
    (∀ i : Fin 6, i < 3 → argNat (withArgs [1, 2, 0]) i < Curve.P) ∧ argNat (withArgs [1, 2, 0]) 2 = 0 ∧
    (∀ i : Fin 6, i < 3 → argNat (withArgs [5, 7, 1]) i < Curve.P) ∧ argNat (withArgs [5, 7, 1]) 2 = 1 ∧
    argNat (withArgs [5, 7, 1]) 2 ≠ 0 := by decide +kernel

theorem test_witness_JaddIsTheChordLaw :
    let p : Jac := { x := Curve.GX, y := Curve.GY, z := 1 }
    inRange p = true ∧ inRange g2 = true ∧ jaddDegenerate p g2 = false := by decide +kernel

theorem test_witness_JdblIsTheTangentLaw :
    let p : Jac := { x := Curve.GX, y := Curve.GY, z := 1 }
    inRange p = true ∧ jdblDegenerate p = false := by decide +kernel

theorem test_witness_BuildTableWritesTheChain :
    (argNat (withArgs [Curve.P - 1, 0]) 0 < Curve.P ∧ argNat (withArgs [Curve.P - 1, 0]) 1 < Curve.P) ∧
    (3 : Fin 4) ≠ 0 ∧ Curve.P ≤ argNat (withArgs [qx, Curve.P]) 1 := by decide +kernel

theorem test_witness_BuildFromTheGeneratorIsDegenerate :
    argNat (withArgs [Curve.GX, Curve.GY]) 0 = Curve.GX ∧ argNat (withArgs [Curve.GX, Curve.GY]) 1 = Curve.GY := by
  decide +kernel

theorem test_witness_MultiplierConsumesTwoBitsPerRound : 2 ^ 256 - 1 < 2 ^ 256 ∧ 0 < 128 ∧ 127 < 128 := by decide

theorem test_witness_ShamirRunsTheWindowedLoop :
    State.reset.status.tableValid = false ∧ (withTable [1, 2]).status.tableValid = true := by decide

theorem test_witness_ShamirOfUnitScalars :
    ((withTable []).status.tableValid = true ∧ (withTable []).args[0] = 0 ∧ (withTable []).args[1] = 0) ∧
    qx < Curve.P ∧ qy < Curve.P ∧
    ((withTable [1, 0]).status.tableValid = true ∧ (withTable [1, 0]).table = storeTable (build qx qy) ∧
      (withTable [1, 0]).args[0] = 1 ∧ (withTable [1, 0]).args[1] = 0) ∧
    ((withTable [0, 1]).status.tableValid = true ∧ (withTable [0, 1]).table = storeTable (build qx qy) ∧
      (withTable [0, 1]).args[0] = 0 ∧ (withTable [0, 1]).args[1] = 1) := by decide +kernel

theorem test_witness_ShamirIsTheDoubleScalarProduct :
    Fact (Nat.Prime Curve.P) ∧ validKey qx qy = true ∧ buildDegenerate qx qy = false ∧
    (withTable [0, 2]).status.tableValid = true ∧ (withTable [0, 2]).table = storeTable (build qx qy) ∧
    ∃ t, exec .shamir (withTable [0, 2]) = .next t ∧ t.status.degen = false :=
  ⟨⟨P_prime⟩, by decide +kernel, by decide +kernel, by decide +kernel, rfl, _, rfl, by decide +kernel⟩

theorem test_witness_VerifyAnswersZeroOnMalformedInput :
    (launched .verify [rfcH, 0, rfcS, qx, qy]).seq = .run (.command .verify) false ∧
    argNat (launched .verify [rfcH, 0, rfcS, qx, qy]) 1 = 0 ∧ argNat (launched .verify [rfcH, rfcR, 0, qx, qy]) 2 = 0 ∧
    Curve.N ≤ argNat (launched .verify [rfcH, Curve.N, rfcS, qx, qy]) 1 ∧
    Curve.halfN + 1 ≤ argNat (launched .verify [rfcH, rfcR, Curve.halfN + 1, qx, qy]) 2 ∧
    Curve.P ≤ argNat (launched .verify [rfcH, rfcR, rfcS, Curve.P, qy]) 3 ∧
    Curve.P ≤ argNat (launched .verify [rfcH, rfcR, rfcS, qx, Curve.P]) 4 ∧
    argNat (launched .verify [rfcH, rfcR, rfcS, qx, qy + 1]) 4 ^ 2 % Curve.P ≠
      (argNat (launched .verify [rfcH, rfcR, rfcS, qx, qy + 1]) 3 ^ 3 +
        Curve.A * argNat (launched .verify [rfcH, rfcR, rfcS, qx, qy + 1]) 3 + Curve.B) % Curve.P ∧
    0 < Curve.halfN ∧ Curve.halfN ≤ Curve.halfN := by decide +kernel

theorem test_witness_VerifySoftwarePathComputesTheVerdict :
    (launched .verify vf1).seq = .run (.command .verify) false ∧ wellFormedInput (launched .verify vf1) = true := by
  decide +kernel

theorem test_witness_RequestsAreSentExactlyWhenEnabled :
    (launched .verify vf1).seq = .run (.command .verify) false ∧ (launched .verify vf1).accelPending = false := by
  decide +kernel

theorem test_witness_VerifyFollowsTheResponse :
    ∀ a : Option AccelResponse,
      (waiting .verify a).seq = .waitAccel .verify (requestPayload (withArgs vf1)) a := fun _ => rfl

theorem test_witness_VerifyStrictOutcomes :
    ((launched .verifyStrict vf1).seq = .run (.command .verifyStrict) false ∧
      wellFormedInput (launched .verifyStrict vf1) = true) ∧
    ((launched .verifyStrict vf2).seq = .run (.command .verifyStrict) false ∧
      wellFormedInput (launched .verifyStrict vf2) = false) ∧
    (waiting .verifyStrict (some .unsupported)).seq =
      .waitAccel .verifyStrict (requestPayload (withArgs vf1)) (some .unsupported) := by decide +kernel

theorem test_witness_VerifyIsEcdsaVerification :
    Fact (Nat.Prime Curve.P) ∧
    ((launched .verify vf1).seq = .run (.command .verify) false ∧ wellFormedInput (launched .verify vf1) = true ∧
      ∃ t, exec .verify (launched .verify vf1) = .next t ∧ t.status.degen = false) ∧
    (let s := waiting .verify (some .unsupported)
     s.seq = .waitAccel .verify (requestPayload (withArgs vf1)) (some .unsupported) ∧ wellFormedInput s = true ∧
      ∃ t, exec .verify s = .next t ∧ t.status.degen = false) :=
  ⟨⟨P_prime⟩, ⟨by decide +kernel, by decide +kernel, _, rfl, by decide +kernel⟩,
    by decide +kernel, by decide +kernel, _, rfl, by decide +kernel⟩

/-- Euler's criterion, in the form the kernel evaluates. -/
theorem square_power_is_one {c : Nat} (h0 : (c : ZMod Curve.P) ≠ 0) (h : IsSquare (c : ZMod Curve.P)) :
    modPow c (Curve.P / 2) Curve.P = 1 := by
  have : Fact (Nat.Prime Curve.P) := ⟨P_prime⟩
  have e := (ZMod.euler_criterion Curve.P h0).1 h
  rw [← Nat.cast_pow, ← Nat.cast_one, ZMod.natCast_eq_natCast_iff'] at e
  rw [modPow_eq P_pos (by decide +kernel), e]
  decide +kernel

/-- V-RC-3, V-RC-4 and V-RC-7's operands: step 1's two cases and step 4's, r = 1. -/
theorem test_witness_RecoverSentinelCases :
    properSig rfcR 0xF7CB1C942D657C41D436C7A1B6E29F65F3E900DBB9AFF4064DC4AB2F843ACDA8 = false ∧
    1 < argNat (withArgs [rfcH, 2, rfcR, rfcS]) 1 ∧
    ¬IsSquare ((argNat (withArgs [rfcH, 1, 1, 1]) 2 : ZMod Curve.P) ^ 3 +
      Curve.A * argNat (withArgs [rfcH, 1, 1, 1]) 2 + Curve.B) := by
  refine ⟨by decide +kernel, by decide +kernel, fun h => ?_⟩
  rw [← curveRhs_cast] at h
  exact absurd (square_power_is_one (by rw [curveRhs_cast]; exact cubic_no_root _) h) (by decide +kernel)

theorem test_witness_RecoverMultipliesTheEphemeralPoint :
    properSig (argNat (withArgs [rfcH, 1, rfcR, rfcS]) 2) (argNat (withArgs [rfcH, 1, rfcR, rfcS]) 3) = true ∧
    argNat (withArgs [rfcH, 1, rfcR, rfcS]) 1 ≤ 1 ∧
    IsSquare ((argNat (withArgs [rfcH, 1, rfcR, rfcS]) 2 : ZMod Curve.P) ^ 3 +
      Curve.A * argNat (withArgs [rfcH, 1, rfcR, rfcS]) 2 + Curve.B) := by
  refine ⟨by decide +kernel, by decide +kernel,
    ((0xCB5818D2BDCDECBCCEAD37D206B01F097AE4076C026E39B4E6AAACB9F6C00B6D : Nat) : ZMod Curve.P), ?_⟩
  rw [← curveRhs_cast, ← Nat.cast_mul, ZMod.natCast_eq_natCast_iff]
  decide +kernel

theorem test_witness_ResponseEvent :
    (nextTurn { State.reset with turns := [.accelerator 0b10] } = .accelerator 0b10 ∧ State.reset.accelPending = false) ∧
    (nextTurn { waiting .verify none with turns := [.accelerator 0b11] } = .accelerator 0b11 ∧
      (waiting .verify none).accelPending = true ∧
      (waiting .verify none).seq = .waitAccel .verify (requestPayload (withArgs vf1)) none) := by decide +kernel

theorem test_witness_handshake_of_launched (i : Instr) (a : List Nat) : HandshakeInv (launched i a) :=
  ⟨⟨fun _ => by simp [launched, accept], fun _ => rfl⟩, by simp [launched, accept, statusAccepted],
    fun _ => ⟨rfl, rfl, rfl⟩⟩

theorem test_witness_EveryErrorIsPrecise :
    HandshakeInv (launched .inv [5, 0]) ∧ (launched .inv [5, 0]).seq ≠ .idle ∧
    ∃ t, exec .inv (launched .inv [5, 0]) = .next t ∧ t.status.err ≠ .noError :=
  ⟨test_witness_handshake_of_launched _ _, by decide +kernel, _, rfl, by decide +kernel⟩

theorem test_witness_ErrorsPossiblePerCommand :
    (HandshakeInv (launched .recover []) ∧ (launched .recover []).seq ≠ .idle ∧
      ∃ t, exec .recover (launched .recover []) = .next t) ∧
    ((accept 0 State.reset).seq = .run .illegal false ∧ ∃ t, sequencerTurn (accept 0 State.reset) = .next t) :=
  ⟨⟨test_witness_handshake_of_launched _ _, by decide +kernel, _, rfl⟩, by decide +kernel, _, rfl⟩

theorem test_witness_EveryCommandsFrame :
    (∃ t, exec .inv (launched .inv [3, 7]) = .next t) ∧
    ((Instr.inv ≠ .buildTable ∧ Instr.inv ≠ .verify ∧ Instr.inv ≠ .recover) ∧ Instr.inv ≠ .verifyStrict) ∧
    ((withTable []).status.tableValid = true ∧ ∃ t, exec .shamir (withTable []) = .next t) :=
  ⟨⟨_, rfl⟩, by decide, by decide, _, rfl⟩

theorem test_witness_DoneIrqClearedOnlyByTheHost :
    (∃ t, step { withProgram ackLines with doneIrq := true } = .next t ∧
      ({ withProgram ackLines with doneIrq := true } : State).doneIrq = true ∧ t.doneIrq = false) ∧
    (∃ t, exec .inv (launched .inv [3, 7]) = .next t ∧ t.seq = .idle ∧ (launched .inv [3, 7]).seq ≠ .idle) :=
  ⟨⟨_, rfl, rfl, by decide +kernel⟩, _, rfl, by decide +kernel, by decide +kernel⟩

theorem test_witness_CtrlWriteTakesEffectAtOnce :
    (0x00000006 : Word).getLsbD 0 = false ∧ (0xFFFFFFFE : Word).getLsbD 0 = false := by decide

theorem test_witness_CommandsDependOnlyOnOperandsAndTable :
    (Instr.shamir ≠ .verify ∧ Instr.shamir ≠ .verifyStrict ∧
      (withTable [1]).args = { withTable [1] with doneIrq := true }.args ∧
      ∃ t t', exec .shamir (withTable [1]) = .next t ∧ exec .shamir { withTable [1] with doneIrq := true } = .next t') ∧
    ((launched .verify vf1).seq = .run (.command .verify) false ∧ ∃ t, exec .verify (launched .verify vf1) = .next t) :=
  ⟨⟨by decide, by decide, rfl, _, _, rfl, rfl⟩, by decide +kernel, _, rfl⟩

theorem test_witness_EveryStepKeepsTheHandshake :
    HandshakeInv (launched .inv [3, 7]) ∧ ∃ t, step (launched .inv [3, 7]) = .next t :=
  ⟨test_witness_handshake_of_launched _ _, _, rfl⟩

theorem test_witness_block_of_launched : BlockInv (launched .inv [3, 7]) :=
  ⟨test_witness_handshake_of_launched _ _,
    ⟨by decide +kernel, by intro k; refine ⟨?_, ?_, ?_⟩ <;> revert k <;> decide +kernel, by decide +kernel⟩,
    ⟨by simp [launched, accept, withArgs, State.reset], by simp [launched, accept]⟩⟩

theorem test_witness_EveryStepKeepsTheBlockInvariant :
    BlockInv (launched .inv [3, 7]) ∧ ∃ t, step (launched .inv [3, 7]) = .next t :=
  ⟨test_witness_block_of_launched, _, rfl⟩

theorem test_witness_TableEntryZeroIsAlwaysTheIdentity :
    (launched .buildTable [qx, qy]).table[0] = { x := 0, y := 0, z := 0 } ∧
    ∃ t, step (launched .buildTable [qx, qy]) = .next t := ⟨by decide +kernel, _, rfl⟩

theorem test_witness_WellFormedHostNeverFaults :
    HostInv (withProgram (cmdLines .inv ++ waitLines 9 0 ++ ackLines)) := by unfold HostInv; decide +kernel

theorem test_witness_OperandsAreStableWhileBusy :
    (launched .inv [3, 7]).status.busy = true ∧ ∃ t, step (launched .inv [3, 7]) = .next t := ⟨rfl, _, rfl⟩

theorem test_witness_OnlyThreeCommandsWriteTheTable :
    (∃ t, step (launched .buildTable [qx, qy]) = .next t ∧ t.table ≠ (launched .buildTable [qx, qy]).table) ∧
    (withTable []).status.tableValid = true ∧ ∃ t, step (withTable []) = .next t :=
  ⟨⟨_, rfl, by decide +kernel⟩, by decide +kernel, _, rfl⟩

theorem test_witness_EveryCommandCompletes :
    BlockInv (launched .inv [3, 7]) ∧ (launched .inv [3, 7]).status.busy = true ∧
    (launched .inv [3, 7]).turns = [] := ⟨test_witness_block_of_launched, rfl, rfl⟩

theorem test_witness_WriteOf256BitsSetsTheOperand :
    let s : State := { withProgram ([.label 1] ++ wr256 5 (.lit (7 : U256).toNat) ++ ackLines) with
      host := { program := [.label 1] ++ wr256 5 (.lit (7 : U256).toNat) ++ ackLines, pos := 1, vars := [] }
      turns := List.replicate 8 .host ++ [.hardReset] }
    s.host.program = [.label 1] ++ wr256 ((5 : Fin 6) : Nat) (.lit (7 : U256).toNat) ++ ackLines ∧
      s.host.pos = [HostLine.label 1].length ∧ s.status.busy = false ∧
      s.turns = List.replicate 8 .host ++ [.hardReset] := by decide +kernel

end Sys2Proof.Tests
end

section
/-! The register window's words, by location: what an aligned access does at each, which offsets the RES registers, the table
store and the hardwired words stand at, and what a location reads after reset (rules R24 to R26, R44, R46, R62 to R64). -/

namespace Sys2Proof.Proofs

open Sys2Proof.Machine Sys2Proof.Laws

/-! Accesses the bus port admits (rule R62). -/

theorem memRead_aligned {off : Nat} (aligned : off % 4 = 0) (inside : off < 0x1000) (s : State) :
    memRead 4 off s = .ok (readLoc s (locate off)) :=
  if_pos ((accessOk_iff 4 off).2 ⟨rfl, aligned, inside⟩)

theorem memWrite_aligned {off : Nat} (aligned : off % 4 = 0) (inside : off < 0x1000) (v : Word) (s : State) :
    memWrite 4 off v s = .ok (writeLoc v s (locate off)) :=
  if_pos ((accessOk_iff 4 off).2 ⟨rfl, aligned, inside⟩)

/-! The registers that read the same in every sequencer state (rule R64). -/

@[simp] theorem memRead_id (s : State) : memRead 4 0x000 s = .ok 0x50323536 := rfl

theorem capsWord_eq : capsWord = if Config.accelPresent then 1 else 0 := by
  unfold capsWord
  cases Config.accelPresent <;> rfl

@[simp] theorem memRead_caps (s : State) : memRead 4 0x004 s = .ok (if Config.accelPresent then 1 else 0) := by
  rw [← capsWord_eq]; rfl

@[simp] theorem memRead_ctrl (s : State) : memRead 4 0x008 s = .ok (ctrlWord s.ctrl) := rfl
@[simp] theorem memRead_cmd (s : State) : memRead 4 0x00C s = .ok s.cmd := rfl
@[simp] theorem memRead_status (s : State) : memRead 4 0x010 s = .ok (statusWord s.status) := rfl
@[simp] theorem memRead_irqStatus (s : State) : memRead 4 0x014 s = .ok (irqStatusWord s.doneIrq) := rfl

theorem memRead_arg (s : State) (i : Fin 6) (k : Fin 8) :
    memRead 4 (0x100 + 0x20 * i.val + 4 * k.val) s = .ok (wordOf s.args[i] k) := by
  rw [memRead_aligned (by omega) (by omega), locate_arg]; rfl

theorem memRead_rom (s : State) (n : Fin 7) (k : Fin 8) :
    memRead 4 (0x300 + 0x20 * n.val + 4 * k.val) s = .ok (wordOf (romValue n) k) := by
  rw [memRead_aligned (by omega) (by omega), locate_rom]; rfl

/-- The host's turn on a read line that the bus port admits changes the host alone (rules R64, R98). -/
theorem hostTurn_read {s : State} {size x off : Nat} {w : Word}
    (line : s.host.program[s.host.pos]? = some (.read size x off)) (read : memRead size off s = .ok w) :
    hostTurn s = .next (hostAssign x w.toNat s) := by
  simp only [hostTurn, line, hostLine, read]

/-! The offsets of the result registers and the table store (rules R24, R36). -/

theorem locate_eq_res_of_range {off : Nat} (aligned : off % 4 = 0) (range : 0x200 ≤ off ∧ off ≤ 0x25F) :
    ∃ j k, locate off = .res j k := by
  refine ⟨⟨(off - 0x200) / 0x20, by omega⟩, ⟨(off - 0x200) % 0x20 / 4, by omega⟩, ?_⟩
  rw [← locate_res]
  congr 1
  dsimp only
  omega

theorem locate_eq_table_of_range {off : Nat} (aligned : off % 4 = 0) (range : 0x400 ≤ off ∧ off ≤ 0x9FF) :
    ∃ e c k, locate off = .table e c k := by
  refine ⟨⟨(off - 0x400) / 0x60, by omega⟩, ⟨(off - 0x400) % 0x60 / 0x20, by omega⟩,
    ⟨(off - 0x400) % 0x20 / 4, by omega⟩, ?_⟩
  rw [← locate_table]
  congr 1
  dsimp only
  omega

/-- Rule R44's zero reads. -/
theorem memRead_eq_zero_of_busy {s : State} (busy : s.status.busy = true) {off : Nat} (aligned : off % 4 = 0)
    (range : (0x200 ≤ off ∧ off ≤ 0x25F) ∨ (0x400 ≤ off ∧ off ≤ 0x9FF)) : memRead 4 off s = .ok 0 := by
  rw [memRead_aligned aligned (by omega)]
  rcases range with hres | htable
  · obtain ⟨j, k, loc⟩ := locate_eq_res_of_range aligned hres
    simp only [loc, readLoc, busy, if_true]
  · obtain ⟨e, c, k, loc⟩ := locate_eq_table_of_range aligned htable
    simp only [loc, readLoc, busy, if_true]

/-! The hardwired words, and what every other word reads after reset (rules R25, R26, R31, R46). -/

/-- The location is a word of ID, CAPS or the constant ROM, the only ones whose value is hardwired. -/
def hardwired : Loc → Bool
  | .id | .caps | .rom _ _ => true
  | _ => false

theorem hardwired_locate_iff (off : Nat) :
    hardwired (locate off) = true ↔ off = 0x000 ∨ off = 0x004 ∨ (0x300 ≤ off ∧ off < 0x3E0) := by
  unfold locate
  split_ifs <;> simp only [hardwired, true_iff, Bool.false_eq_true, false_iff] <;> omega

@[simp] theorem wordOf_zero (k : Fin 8) : wordOf 0#256 k = 0#32 := BitVec.extractLsb'_zero

@[simp] theorem entryCoord_zero (c : Fin 3) : entryCoord { x := 0#256, y := 0#256, z := 0#256 } c = 0#256 := by
  fin_cases c <;> rfl

/-- In the reset state every location with storage, and every reserved one, reads 0. -/
theorem readLoc_reset {l : Loc} (h : hardwired l = false) : readLoc State.reset l = 0 := by
  cases l with
  | id | caps | rom => simp [hardwired] at h
  | ctrl | cmd | status | irqStatus | reserved => rfl
  | arg | res | table => simp [readLoc]

/-- A read sees the block's state alone. -/
theorem readLoc_of_blockIsReset {t : State} (h : BlockIsReset t) (l : Loc) : readLoc t l = readLoc State.reset l := by
  rw [← h]
  cases l <;> rfl

end Sys2Proof.Proofs
end

section
/-! The obligations of the window's state: what reads zero while a command runs, the reset values, the identification. -/

namespace Sys2Proof.Proofs

open Sys2Proof.Machine

/-- Settles O6: RES and TABLE words read 0 by their location, and every other register's word does not look at BUSY. -/
theorem resultsReadZeroWhileBusy : Obligations.ResultsReadZeroWhileBusy := by
  intro s busy
  refine ⟨fun off aligned range => ?_, memRead_id s, memRead_caps s, memRead_ctrl s, memRead_cmd s, memRead_status s,
    memRead_irqStatus s, memRead_arg s, memRead_rom s⟩
  have zero : memRead 4 off s = .ok 0 := memRead_eq_zero_of_busy busy aligned range
  exact ⟨zero, fun x line => ⟨_, hostTurn_read line zero, rfl⟩⟩

/-- Settles O13: a location that is not hardwired reads as in the reset state, where it holds 0. -/
theorem resetReadsZero : Obligations.ResetReadsZero := by
  refine ⟨rfl, fun t isReset => ⟨fun off aligned inside notId notCaps notRom => ?_, memRead_id t, memRead_caps t,
    memRead_rom t, congrArg State.seq isReset, congrArg State.accelPending isReset, congrArg irqOut isReset⟩⟩
  have stored : hardwired (locate off) = false := by
    rw [← Bool.not_eq_true, hardwired_locate_iff]
    simp only [notId, notCaps, notRom, or_self, not_false_iff]
  rw [memRead_aligned aligned inside, readLoc_of_blockIsReset isReset, readLoc_reset stored]

/-- Settles O8: ID and CAPS have no storage, so no state bears on their reads, and a write at their locations is ignored. -/
theorem identificationIsHardwired : Obligations.IdentificationIsHardwired := fun s =>
  ⟨memRead_id s, memRead_id (resetBlock s), memRead_caps s, fun v =>
    ⟨memWrite_aligned rfl (by decide) v s, memWrite_aligned rfl (by decide) v s⟩⟩

end Sys2Proof.Proofs
end

section
/-! The window's 256-bit registers as eight words each, and rule R63's rows: what an aligned write does at each location
(rules R21, R27, R28, R30, R44, R61, R63, R95). -/

namespace Sys2Proof.Proofs

open Sys2Proof.Machine Sys2Proof.Laws

/-! A 256-bit value and its words (rule R61). -/

/-- The low `n` digits of a number in base 2^32 are what it leaves modulo 2^(32n). -/
theorem sum_word_digits (v n : Nat) : ∑ i ∈ Finset.range n, v / 2 ^ (32 * i) % 2 ^ 32 * 2 ^ (32 * i) = v % 2 ^ (32 * n) := by
  induction n with
  | zero => simp [Nat.mod_one]
  | succ n ih => rw [Finset.sum_range_succ, ih, Nat.mul_succ, pow_add, Nat.mod_mul, Nat.mul_comm (2 ^ (32 * n))]

/-- The words recombine to the value: word k is its digit 7 - k in base 2^32. -/
theorem toNat_eq_sum_wordOf (v : U256) : v.toNat = ∑ k : Fin 8, (wordOf v k).toNat * 2 ^ (32 * (7 - k.val)) := by
  calc v.toNat
      = v.toNat % 2 ^ (32 * 8) := (Nat.mod_eq_of_lt v.isLt).symm
    _ = ∑ i ∈ Finset.range 8, v.toNat / 2 ^ (32 * i) % 2 ^ 32 * 2 ^ (32 * i) := (sum_word_digits v.toNat 8).symm
    _ = ∑ k ∈ Finset.range 8, v.toNat / 2 ^ (32 * (7 - k)) % 2 ^ 32 * 2 ^ (32 * (7 - k)) :=
      (Finset.sum_range_reflect _ 8).symm
    _ = ∑ k : Fin 8, v.toNat / 2 ^ (32 * (7 - k.val)) % 2 ^ 32 * 2 ^ (32 * (7 - k.val)) := Finset.sum_range _
    _ = ∑ k : Fin 8, (wordOf v k).toNat * 2 ^ (32 * (7 - k.val)) := by
      simp only [wordOf_toNat, Nat.mul_sub, Nat.reduceMul]

/-! Reads of the registers that rule R44 hides while a command runs. -/

theorem memRead_res (s : State) (j : Fin 3) (k : Fin 8) :
    memRead 4 (0x200 + 0x20 * j.val + 4 * k.val) s = .ok (if s.status.busy then 0 else wordOf s.res[j] k) := by
  rw [memRead_aligned (by omega) (by omega), locate_res]; rfl

theorem memRead_table (s : State) (e : Fin 16) (c : Fin 3) (k : Fin 8) :
    memRead 4 (0x400 + 0x60 * e.val + 0x20 * c.val + 4 * k.val) s =
      .ok (if s.status.busy then 0 else wordOf (entryCoord s.table[e] c) k) := by
  rw [memRead_aligned (by omega) (by omega), locate_table]; rfl

/-! Writes at the locations that have a row in rule R63. -/

theorem memWrite_ctrl (v : Word) (s : State) : memWrite 4 0x008 v s = .ok (writeCtrl v s) := rfl
theorem memWrite_cmd (v : Word) (s : State) : memWrite 4 0x00C v s = .ok (writeCmd v s) := rfl
theorem memWrite_irqStatus (v : Word) (s : State) : memWrite 4 0x014 v s = .ok (writeIrqStatus v s) := rfl

theorem memWrite_arg (i : Fin 6) (k : Fin 8) (v : Word) (s : State) :
    memWrite 4 (0x100 + 0x20 * i.val + 4 * k.val) v s = .ok (writeArg i k v s) := by
  rw [memWrite_aligned (by omega) (by omega), locate_arg]; rfl

theorem writeCtrl_of_softReset {v : Word} (h : v.getLsbD 0 = true) (s : State) : writeCtrl v s = resetBlock s := if_pos h

theorem writeCtrl_of_not_softReset {v : Word} (h : v.getLsbD 0 = false) (s : State) :
    writeCtrl v s = { s with ctrl := ctrlOfWord v } := if_neg (Bool.eq_false_iff.1 h)

theorem writeCmd_of_idle {s : State} (idle : s.status.busy = false) (v : Word) : writeCmd v s = accept v s :=
  if_neg (Bool.eq_false_iff.1 idle)

theorem writeCmd_of_busy {s : State} (busy : s.status.busy = true) (v : Word) :
    writeCmd v s = { s with status := statusBusyWrite s.status } := if_pos busy

theorem writeArg_of_idle {s : State} (idle : s.status.busy = false) (i : Fin 6) (k : Fin 8) (v : Word) :
    writeArg i k v s = { s with args := s.args.set i (setWordOf s.args[i] k v) } := if_neg (Bool.eq_false_iff.1 idle)

theorem writeArg_of_busy {s : State} (busy : s.status.busy = true) (i : Fin 6) (k : Fin 8) (v : Word) :
    writeArg i k v s = { s with status := statusBusyWrite s.status } := if_pos busy

/-- DONE_IRQ is write-1-to-clear (rule R30). -/
theorem writeIrqStatus_eq (v : Word) (s : State) :
    writeIrqStatus v s = { s with doneIrq := s.doneIrq && !v.getLsbD 0 } := by
  unfold writeIrqStatus
  cases v.getLsbD 0 <;> simp

/-! Writes everywhere else. -/

/-- The location has a row of its own in rule R63; a write at any other is ignored. -/
def hasWriteRow : Loc → Bool
  | .ctrl | .cmd | .irqStatus | .arg _ _ => true
  | _ => false

/-- Pushed through the register map's chain of conditions, `hasWriteRow` becomes one formula about the offset. -/
theorem hasWriteRow_locate_iff (off : Nat) :
    hasWriteRow (locate off) = true ↔ off = 0x008 ∨ off = 0x00C ∨ off = 0x014 ∨ (0x100 ≤ off ∧ off < 0x1C0) := by
  simp only [locate, apply_ite hasWriteRow, apply_dite hasWriteRow]
  simp only [hasWriteRow, dite_eq_ite, ite_self, Bool.if_false_left, Bool.if_true_left, Bool.or_false, Bool.and_eq_true,
    Bool.or_eq_true, Bool.not_eq_true', decide_eq_true_eq, decide_eq_false_iff_not]
  omega

theorem writeLoc_of_no_row {l : Loc} (h : hasWriteRow l = false) (v : Word) (s : State) : writeLoc v s l = s := by
  cases l with
  | ctrl | cmd | irqStatus | arg => simp [hasWriteRow] at h
  | id | caps | status | res | rom | table | reserved => rfl

end Sys2Proof.Proofs
end

section
/-! The obligations of the window's layout and of its writes. -/

namespace Sys2Proof.Proofs

open Sys2Proof.Machine Sys2Proof.Laws

/-- Settles O5: a value is the base-2^32 sum of its words, and each register's word stands at its own location. -/
theorem windowLaysOutRegistersBigEndian : Obligations.WindowLaysOutRegistersBigEndian := by
  refine ⟨wordOf_toNat, toNat_eq_sum_wordOf, fun s k => ⟨fun i => memRead_arg s i k, fun n => memRead_rom s n k,
    fun idle => ⟨fun j => ?_, fun e c => ?_⟩⟩⟩
  · rw [memRead_res, idle]; rfl
  · rw [memRead_table, idle]; rfl

/-- Settles O10: one row per location that has an effect, the ARG rows by `setWordOf`, and no effect at the others. -/
theorem windowWriteEffects : Obligations.WindowWriteEffects := by
  intro s v
  refine ⟨fun h => ?ctrlReset, fun h => ?ctrl, fun idle => ?cmdIdle, fun busy => ?cmdBusy, ?irqStatus,
    fun i k idle => ?argIdle, fun i k busy => ?argBusy, fun off aligned inside notCtrl notCmd notIrq notArg => ?ignored⟩
  case ctrlReset => rw [memWrite_ctrl, writeCtrl_of_softReset h]
  case ctrl => rw [memWrite_ctrl, writeCtrl_of_not_softReset h]; rfl
  case cmdIdle => rw [memWrite_cmd, writeCmd_of_idle idle]
  case cmdBusy => rw [memWrite_cmd, writeCmd_of_busy busy]; rfl
  case irqStatus => rw [memWrite_irqStatus, writeIrqStatus_eq]
  case argIdle =>
    exact ⟨setWordOf s.args[i] k v, by rw [memWrite_arg, writeArg_of_idle idle], wordOf_setWordOf_same _ k v,
      fun _ other => wordOf_setWordOf_ne _ other v⟩
  case argBusy => rw [memWrite_arg, writeArg_of_busy busy]; rfl
  case ignored =>
    have noRow : hasWriteRow (locate off) = false := by
      rw [← Bool.not_eq_true, hasWriteRow_locate_iff]
      simp only [notCtrl, notCmd, notIrq, notArg, or_self, not_false_iff]
    rw [memWrite_aligned aligned inside, writeLoc_of_no_row noRow]

end Sys2Proof.Proofs
end

section
/-! The command word by its two fields: which commands have which opcodes, what `decode` answers in each case of rule R91, and
that `encode` is its inverse (rules R90, R91, R93). Then the error completion's effects, for any code (rule R246). -/

namespace Sys2Proof.Proofs

open Sys2Proof.Machine

/-! Opcodes (rule R93). -/

theorem commandOfOpcode_opcodeOf (i : Instr) : commandOfOpcode (opcodeOf i) = some i := by cases i <;> rfl

theorem opcodeOf_of_commandOfOpcode {n : Nat} {i : Instr} (h : commandOfOpcode n = some i) : n = opcodeOf i := by
  unfold commandOfOpcode at h
  split at h
  case h_13 => cases h
  all_goals cases h; rfl

theorem commandOfOpcode_eq_some_iff {n : Nat} {i : Instr} : commandOfOpcode n = some i ↔ n = opcodeOf i :=
  ⟨opcodeOf_of_commandOfOpcode, fun h => h ▸ commandOfOpcode_opcodeOf i⟩

theorem opcodeOf_lt (i : Instr) : opcodeOf i < 16 := by cases i <;> decide

/-! The decoder's three cases (rule R91). -/

theorem decode_of_reserved {w : Word} (reserved : rsvField w ≠ 0) : decode w = .error .reservedBits := if_pos reserved

theorem decode_of_unused {w : Word} (plain : rsvField w = 0) (unused : commandOfOpcode (opcField w) = none) :
    decode w = .error .unusedOpcode := by
  simp only [decode, plain, unused, ne_eq, not_true_eq_false, if_false]

theorem decode_of_command {w : Word} {i : Instr} (plain : rsvField w = 0) (command : commandOfOpcode (opcField w) = some i) :
    decode w = .ok i := by
  simp only [decode, plain, command, ne_eq, not_true_eq_false, if_false]

theorem decode_eq_ok_iff {w : Word} {i : Instr} : decode w = .ok i ↔ rsvField w = 0 ∧ opcField w = opcodeOf i := by
  rw [← commandOfOpcode_eq_some_iff]
  refine ⟨fun ok => ?_, fun ⟨plain, command⟩ => decode_of_command plain command⟩
  by_cases plain : rsvField w = 0
  · cases row : commandOfOpcode (opcField w) with
    | none => cases (decode_of_unused plain row).symm.trans ok
    | some j => cases (decode_of_command plain row).symm.trans ok; exact ⟨plain, rfl⟩
  · cases (decode_of_reserved plain).symm.trans ok

/-! The encoder (rules R90, R93). -/

theorem encode_toNat (i : Instr) : (encode i).toNat = opcodeOf i := by
  have := opcodeOf_lt i
  rw [encode, BitVec.toNat_ofNat, Nat.mod_eq_of_lt (by omega)]

/-- A number below 16 is its own last hex digit, so a word is a command's exactly when its two fields are. -/
theorem eq_encode_iff {w : Word} {i : Instr} : w = encode i ↔ rsvField w = 0 ∧ opcField w = opcodeOf i := by
  have := opcodeOf_lt i
  rw [← BitVec.toNat_inj, encode_toNat, rsvField, opcField]
  omega

/-! The error completion (rule R246). -/

theorem errorCompletion_raiseError (code : ErrCode) (s : State) : ErrorCompletion s (raiseError code s) code where
  left :=
    { busy := rfl, done := rfl, err := rfl, accelUsed := rfl, degen := rfl, doneIrq := rfl, idle := rfl
      frame :=
        { args := rfl, cmd := rfl, ctrl := rfl, busyWrite := rfl, accelPending := rfl, host := rfl, turns := rfl
          draws := rfl } }
  right := ⟨⟨rfl, rfl, rfl⟩, rfl, Bool.or_false _⟩

theorem sequencerTurn_of_illegal {s : State} {accelEn : Bool} (run : s.seq = .run .illegal accelEn) :
    sequencerTurn s = .next (raiseError .illegalCmd s) := by
  simp only [sequencerTurn, runningOp, run, completeIllegal]

end Sys2Proof.Proofs
end

section
/-! The obligations of the encoding. -/

namespace Sys2Proof.Proofs

open Sys2Proof.Machine Sys2Proof.Laws

/-- Settles O1: a word decodes to a command, and is its encoding, under the same condition on the two fields. -/
theorem onlyTheTableWordsAreCommands : Obligations.OnlyTheTableWordsAreCommands :=
  ⟨by decide, fun _ _ => decode_eq_ok_iff.trans eq_encode_iff.symm⟩

/-- Settles O3: rule R91's cases are the decoder's, acceptance runs whatever the word decodes to, and the ILLEGAL completion
is `raiseError`. -/
theorem everyWordDecodesAndIllegalCompletes : Obligations.EveryWordDecodesAndIllegalCompletes := by
  refine ⟨fun w reserved => ?reserved, fun w plain unused => ?unused, fun w i plain opcode => ?command,
    fun w s idle => ?accepted, rfl, fun s accelEn run => ?completes⟩
  case reserved => exact opOfWord_of_illegal (decode_of_reserved reserved)
  case unused =>
    have noRow : commandOfOpcode (opcField w) = none := by
      rw [opcField]
      rcases unused with h | h | h | h <;> rw [h] <;> rfl
    exact opOfWord_of_illegal (decode_of_unused plain noRow)
  case command => exact opOfWord_of_decode (decode_eq_ok_iff.2 ⟨plain, opcode⟩)
  case accepted => exact ⟨accept w s, by rw [memWrite_cmd, writeCmd_of_idle idle], accept_cmd w s, rfl, accept_seq w s⟩
  case completes => exact ⟨_, sequencerTurn_of_illegal run, errorCompletion_raiseError .illegalCmd s⟩

end Sys2Proof.Proofs
end

section
/-! What the commands of the two arithmetic units leave (rules R112, R113, R280): the units' answers as exact integers, and
the completion of a one-value command. -/

namespace Sys2Proof.Proofs

open Sys2Proof.Machine Sys2Proof.Laws

/-! Operands and completions. -/

theorem argNat_lt (s : State) (i : Fin 6) : argNat s i < 2 ^ 256 := s.args[i].isLt

theorem completedWith_complete (r : Results) (s : State) :
    CompletedWith s (complete r s) r.err r.accelUsed r.degen where
  busy := rfl
  done := rfl
  err := rfl
  accelUsed := rfl
  degen := rfl
  doneIrq := rfl
  idle := rfl
  frame :=
    { args := rfl, cmd := rfl, ctrl := rfl, busyWrite := rfl, accelPending := rfl, host := rfl, turns := rfl, draws := rfl }

theorem tableUntouched_complete {r : Results} (noTable : r.table = none) (s : State) : TableUntouched s (complete r s) := by
  simp [TableUntouched, noTable]

/-! The answers of inv and modpow. -/

theorem inv_of_zero_modulus {a m : Nat} (zero : m = 0) : inv a m = .error .badModulus := if_pos zero

theorem inv_of_zero_residue {a m : Nat} (modulus : m ≠ 0) (zero : a % m = 0) : inv a m = .error .notInvertible :=
  (if_neg modulus).trans (if_pos zero)

theorem inv_of_residue {a m : Nat} (modulus : m ≠ 0) (fits : m < 2 ^ 256) (residue : a % m ≠ 0) :
    inv a m = .ok (a ^ (m - 2) % m) := by
  rw [inv, if_neg modulus, if_neg residue, invValue_eq (Nat.pos_of_ne_zero modulus) fits]

theorem modpow_of_zero_modulus {b e m : Nat} (zero : m = 0) : modpow b e m = .error .badModulus := if_pos zero

theorem modpow_of_modulus {b e m : Nat} (modulus : m ≠ 0) (fits : e < 2 ^ 256) : modpow b e m = .ok (b ^ e % m) := by
  rw [modpow, if_neg modulus, modPow_eq (Nat.pos_of_ne_zero modulus) fits]

/-! The completion of a one-value command (rules R120, R125). -/

theorem errorCompletion_completeValue {v : Except ErrCode Nat} {code : ErrCode} (answer : v = .error code) (s : State) :
    ErrorCompletion s (completeValue v s) code :=
  answer ▸ errorCompletion_raiseError code s

/-- RES0 holds a 256-bit value as it is, with no reduction (rule R110). -/
theorem completeValue_writes_value {v : Except ErrCode Nat} {x : Nat} (answer : v = .ok x) (fits : x < 2 ^ 256) (s : State) :
    CompletedWith s (completeValue v s) .noError false false ∧ TableUntouched s (completeValue v s) ∧
      (completeValue v s).res[0].toNat = x ∧ (completeValue v s).res[1] = 0 ∧ (completeValue v s).res[2] = 0 := by
  subst answer
  exact ⟨completedWith_complete _ s, tableUntouched_complete rfl s, resOf_toNat fits, rfl, rfl⟩

/-- A remainder by a modulus that an ARG register holds fits a RES register (rule R110). -/
theorem mod_argNat_lt (a : Nat) {s : State} {i : Fin 6} (modulus : argNat s i ≠ 0) : a % argNat s i < 2 ^ 256 :=
  (Nat.mod_lt a (Nat.pos_of_ne_zero modulus)).trans (argNat_lt s i)

end Sys2Proof.Proofs
end

section
/-! The obligations of the field arithmetic. -/

namespace Sys2Proof.Proofs

open Sys2Proof.Machine Sys2Proof.Laws

/-- Settles O15: INV completes with inv's answer, which is one of the two errors or the exact power's remainder. -/
theorem invWritesTheFermatPower : Obligations.InvWritesTheFermatPower := by
  refine ⟨rfl, rfl, rfl, fun s =>
    ⟨_, rfl, fun zero => ?badModulus, fun modulus zero => ?notInvertible, fun modulus residue => ?power⟩⟩
  case badModulus => exact errorCompletion_completeValue (inv_of_zero_modulus zero) s
  case notInvertible => exact errorCompletion_completeValue (inv_of_zero_residue modulus zero) s
  case power =>
    exact completeValue_writes_value (inv_of_residue modulus (argNat_lt s 1) residue) (mod_argNat_lt _ modulus) s

/-- Settles O17: MODEXP completes with modpow's answer, and the exponent register's 256 bits are all the bits the
square-and-multiply loop reads. -/
theorem modexpWritesTheExactPower : Obligations.ModexpWritesTheExactPower := by
  refine ⟨rfl, rfl, fun s => ⟨_, rfl, fun zero => ?badModulus, fun modulus => ?power⟩⟩
  case badModulus => exact errorCompletion_completeValue (modpow_of_zero_modulus zero) s
  case power =>
    exact completeValue_writes_value (modpow_of_modulus modulus (argNat_lt s 1)) (mod_argNat_lt _ modulus) s

end Sys2Proof.Proofs
end

section
/-! What the addition and doubling commands leave (rules R162, R164, R166, R280): the formulas in exact integers and their
remainders modulo P, the degenerate marks, and the completion of a command whose result is a Jacobian triple. -/

namespace Sys2Proof.Proofs

open Sys2Proof.Machine Sys2Proof.Laws

/-- A natural below P that has an integer's class in the field is that integer's remainder (rule R11). -/
theorem natCast_eq_emod_of_cast_eq {n : Nat} {k : Int} (below : n < Curve.P) (same : (n : ZMod Curve.P) = k) :
    (n : Int) = k % Curve.P := by
  have congruent : (n : Int) % Curve.P = k % Curve.P :=
    (ZMod.intCast_eq_intCast_iff' n k Curve.P).mp (by rwa [Int.cast_natCast])
  rwa [Int.emod_eq_of_lt (Int.natCast_nonneg n) (Int.ofNat_lt.mpr below)] at congruent

/-! The addition formulas of rule R162 in exact integers: the locals u1, s1, h and r, and the results. -/

/-- u1 = x1·z2² (u2 with the operands swapped, as for `jaddU`). -/
def exactU (p q : Jac) : Int := p.x * q.z ^ 2

/-- s1 = y1·z2³ (s2 with the operands swapped, as for `jaddS`). -/
def exactS (p q : Jac) : Int := p.y * q.z ^ 3

/-- h = u2 − u1. -/
def exactH (p q : Jac) : Int := exactU q p - exactU p q

/-- r = s2 − s1. -/
def exactR (p q : Jac) : Int := exactS q p - exactS p q

/-- X' of the addition. -/
def exactJaddX (p q : Jac) : Int := exactR p q ^ 2 - exactH p q ^ 3 - 2 * exactU p q * exactH p q ^ 2

/-- Y' of the addition, from the unreduced X'. -/
def exactJaddY (p q : Jac) : Int :=
  exactR p q * (exactU p q * exactH p q ^ 2 - exactJaddX p q) - exactS p q * exactH p q ^ 3

/-- Z' of the addition. -/
def exactJaddZ (p q : Jac) : Int := exactH p q * p.z * q.z

theorem jaddU_cast_eq_exactU (p q : Jac) : (jaddU p q : ZMod Curve.P) = exactU p q := by
  rw [jaddU_cast, exactU]; push_cast; rfl

theorem jaddS_cast_eq_exactS (p q : Jac) : (jaddS p q : ZMod Curve.P) = exactS p q := by
  rw [jaddS_cast, exactS]; push_cast; rfl

theorem jaddH_cast_eq_exactH (p q : Jac) : (jaddH p q : ZMod Curve.P) = exactH p q := by
  rw [jaddH_cast, exactH, exactU, exactU]; push_cast; rfl

theorem jaddR_cast_eq_exactR (p q : Jac) : (jaddR p q : ZMod Curve.P) = exactR p q := by
  rw [jaddR_cast, exactR, exactS, exactS]; push_cast; rfl

theorem jadd_x_cast_eq_exact (p q : Jac) : ((jadd p q).x : ZMod Curve.P) = exactJaddX p q := by
  rw [jadd_x_cast, jaddR_cast_eq_exactR, jaddH_cast_eq_exactH, jaddU_cast_eq_exactU, exactJaddX]
  push_cast; ring

theorem jadd_y_cast_eq_exact (p q : Jac) : ((jadd p q).y : ZMod Curve.P) = exactJaddY p q := by
  rw [jadd_y_cast, jadd_x_cast_eq_exact, jaddR_cast_eq_exactR, jaddH_cast_eq_exactH, jaddU_cast_eq_exactU,
    jaddS_cast_eq_exactS, exactJaddY]
  push_cast; rfl

theorem jadd_z_cast_eq_exact (p q : Jac) : ((jadd p q).z : ZMod Curve.P) = exactJaddZ p q := by
  rw [jadd_z_cast, jaddH_cast_eq_exactH, exactJaddZ]
  push_cast; ring

theorem jaddH_eq_emod (p q : Jac) : (jaddH p q : Int) = exactH p q % Curve.P :=
  natCast_eq_emod_of_cast_eq (subP_lt _ _) (jaddH_cast_eq_exactH p q)

/-- jadd is the exact formulas, reduced, for every pair of triples (rules R11, R162). -/
theorem jadd_eq_emod (p q : Jac) :
    ((jadd p q).x : Int) = exactJaddX p q % Curve.P ∧ ((jadd p q).y : Int) = exactJaddY p q % Curve.P ∧
      ((jadd p q).z : Int) = exactJaddZ p q % Curve.P := by
  obtain ⟨ltX, ltY, ltZ⟩ := jadd_lt p q
  exact ⟨natCast_eq_emod_of_cast_eq ltX (jadd_x_cast_eq_exact p q),
    natCast_eq_emod_of_cast_eq ltY (jadd_y_cast_eq_exact p q), natCast_eq_emod_of_cast_eq ltZ (jadd_z_cast_eq_exact p q)⟩

theorem jaddDegenerate_iff (p q : Jac) :
    jaddDegenerate p q = true ↔ (p.z : Int) = 0 ∨ (q.z : Int) = 0 ∨ exactH p q % Curve.P = 0 := by
  rw [← jaddH_eq_emod]
  simp [jaddDegenerate, or_assoc]

/-! The doubling formulas of rule R164 in exact integers: the locals m and s, and the results. -/

/-- m = 3x² + A·z⁴. -/
def exactM (p : Jac) : Int := 3 * p.x ^ 2 + Curve.A * p.z ^ 4

/-- k = 4x·y², which rule R164 calls s. -/
def exactK (p : Jac) : Int := 4 * p.x * p.y ^ 2

/-- X' of the doubling. -/
def exactJdblX (p : Jac) : Int := exactM p ^ 2 - 2 * exactK p

/-- Y' of the doubling, from the unreduced X'. -/
def exactJdblY (p : Jac) : Int := exactM p * (exactK p - exactJdblX p) - 8 * p.y ^ 4

/-- Z' of the doubling. -/
def exactJdblZ (p : Jac) : Int := 2 * p.y * p.z

theorem jdbl_x_cast_eq_exact (p : Jac) : ((jdbl p).x : ZMod Curve.P) = exactJdblX p := by
  rw [jdbl_x_cast, exactJdblX, exactM, exactK]
  push_cast; ring

theorem jdbl_y_cast_eq_exact (p : Jac) : ((jdbl p).y : ZMod Curve.P) = exactJdblY p := by
  rw [jdbl_y_cast, jdbl_x_cast_eq_exact, exactJdblY, exactM, exactK]
  push_cast; ring

theorem jdbl_z_cast_eq_exact (p : Jac) : ((jdbl p).z : ZMod Curve.P) = exactJdblZ p := by
  rw [jdbl_z_cast, exactJdblZ]
  push_cast; ring

/-- jdbl is the exact formulas, reduced, for every triple (rules R11, R164). -/
theorem jdbl_eq_emod (p : Jac) :
    ((jdbl p).x : Int) = exactJdblX p % Curve.P ∧ ((jdbl p).y : Int) = exactJdblY p % Curve.P ∧
      ((jdbl p).z : Int) = exactJdblZ p % Curve.P := by
  obtain ⟨ltX, ltY, ltZ⟩ := jdbl_lt p
  exact ⟨natCast_eq_emod_of_cast_eq ltX (jdbl_x_cast_eq_exact p),
    natCast_eq_emod_of_cast_eq ltY (jdbl_y_cast_eq_exact p), natCast_eq_emod_of_cast_eq ltZ (jdbl_z_cast_eq_exact p)⟩

theorem jdblDegenerate_iff (p : Jac) : jdblDegenerate p = true ↔ (p.z : Int) = 0 ∨ (p.y : Int) = 0 := by
  simp [jdblDegenerate]

/-! The commands on operands that pass the range check (rule R160). -/

theorem inRange_argPoint1 {s : State} (below : ∀ i : Fin 6, i < 3 → argNat s i < Curve.P) :
    inRange (argPoint1 s) = true :=
  (inRange_iff _).mpr ⟨below 0 (by decide), below 1 (by decide), below 2 (by decide)⟩

theorem inRange_argPoint2 {s : State} (below : ∀ i : Fin 6, argNat s i < Curve.P) : inRange (argPoint2 s) = true :=
  (inRange_iff _).mpr ⟨below 3, below 4, below 5⟩

theorem exec_jadd_of_inRange {s : State} (first : inRange (argPoint1 s) = true) (second : inRange (argPoint2 s) = true) :
    exec .jadd s = .next (completePoint (jadd (argPoint1 s) (argPoint2 s))
      (jaddDegenerate (argPoint1 s) (argPoint2 s)) s) := by
  simp [exec, execJadd, first, second]

theorem exec_jdbl_of_inRange {s : State} (operand : inRange (argPoint1 s) = true) :
    exec .jdbl s = .next (completePoint (jdbl (argPoint1 s)) (jdblDegenerate (argPoint1 s)) s) := by
  simp [exec, execJdbl, operand]

/-! The completion of a command whose result is a Jacobian triple (rules R161, R163). -/

theorem completePoint_completes (p : Jac) (d : Bool) (s : State) :
    CompletedWith s (completePoint p d s) .noError false d ∧ TableUntouched s (completePoint p d s) :=
  ⟨completedWith_complete _ s, tableUntouched_complete rfl s⟩

/-- The RES registers hold a triple below P as it is (rule R110). -/
theorem completePoint_res {p : Jac} (below : JacLt p) (d : Bool) (s : State) :
    (completePoint p d s).res[0].toNat = p.x ∧ (completePoint p d s).res[1].toNat = p.y ∧
      (completePoint p d s).res[2].toNat = p.z := by
  obtain ⟨ltX, ltY, ltZ⟩ := below
  exact ⟨resOf_toNat_of_lt_P ltX, resOf_toNat_of_lt_P ltY, resOf_toNat_of_lt_P ltZ⟩

end Sys2Proof.Proofs
end

section
/-! The obligations of the point operations. -/

namespace Sys2Proof.Proofs

open Sys2Proof.Machine Sys2Proof.Laws

/-- Settles O22: JADD completes with jadd of its operands, which agrees with the exact formulas in the field and is below
P, so its coordinates are the formulas' remainders. -/
theorem jaddEvaluatesTheFormulas : Obligations.JaddEvaluatesTheFormulas := by
  intro s below x1 y1 z1 x2 y2 z2 u1 h s1 r x' y' z'
  set p := argPoint1 s
  set q := argPoint2 s
  have run := exec_jadd_of_inRange (inRange_argPoint1 fun i _ => below i) (inRange_argPoint2 below)
  obtain ⟨completed, table⟩ := completePoint_completes (jadd p q) (jaddDegenerate p q) s
  obtain ⟨resX, resY, resZ⟩ := completePoint_res (jadd_lt p q) (jaddDegenerate p q) s
  obtain ⟨modX, modY, modZ⟩ := jadd_eq_emod p q
  exact ⟨_, _, run, completed, table, resX ▸ modX, resY ▸ modY, resZ ▸ modZ, jaddDegenerate_iff p q⟩

/-- Settles O25: JDBL completes with jdbl of its operand, which agrees with the exact formulas in the field and is below
P, so its coordinates are the formulas' remainders. -/
theorem jdblEvaluatesTheFormulas : Obligations.JdblEvaluatesTheFormulas := by
  intro s below x y z m k x' y' z'
  set p := argPoint1 s
  have run := exec_jdbl_of_inRange (inRange_argPoint1 below)
  obtain ⟨completed, table⟩ := completePoint_completes (jdbl p) (jdblDegenerate p) s
  obtain ⟨resX, resY, resZ⟩ := completePoint_res (jdbl_lt p) (jdblDegenerate p) s
  obtain ⟨modX, modY, modZ⟩ := jdbl_eq_emod p
  exact ⟨_, _, run, completed, table, resX ▸ modX, resY ▸ modY, resZ ▸ modZ, jdblDegenerate_iff p⟩

end Sys2Proof.Proofs
end

section
/-! What BUILD_TABLE and SHAMIR leave (rules R180 to R193): the entries of a built table by row and column, the degenerate
mark of a build, and the multiplier's round on the digits of the original scalars. -/

namespace Sys2Proof.Proofs

open Sys2Proof.Machine Sys2Proof.Laws

/-! The entries of a built table: the row and column of entry 4·row + col (rule R181). -/

theorem build_col (px py : Nat) (col : Fin 3) : (build px py)[col.succ.val] = tableCol px py col := by
  fin_cases col <;> rfl

theorem build_row (px py : Nat) (row : Fin 3) : (build px py)[4 * row.succ.val] = tableRow row := by
  fin_cases row <;> rfl

theorem build_sum (px py : Nat) (row col : Fin 3) :
    (build px py)[4 * row.succ.val + col.succ.val] = jadd (tableRow row) (tableCol px py col) := by
  fin_cases row <;> fin_cases col <;> rfl

/-- A build is degenerate exactly when one of its thirteen evaluations is (rules R166, R181). -/
theorem buildDegenerate_iff (px py : Nat) :
    buildDegenerate px py = true ↔
      jdblDegenerate (tableCol px py 0) = true ∨ jaddDegenerate (tableCol px py 0) (tableCol px py 1) = true ∨
        jdblDegenerate (tableRow 0) = true ∨ jaddDegenerate (tableRow 0) (tableRow 1) = true ∨
        ∃ row col, jaddDegenerate (tableRow row) (tableCol px py col) = true := by
  simp only [buildDegenerate, Bool.or_eq_true, List.any_cons, List.any_nil, Bool.false_eq_true, Fin.exists_fin_succ,
    Fin.exists_fin_zero, or_false, or_assoc]
  rfl

/-- The nine sums' degenerate marks, by the table's row and column numbers instead of the chain's entries. -/
theorem exists_jaddDegenerate_iff (px py : Nat) :
    (∃ row col, jaddDegenerate (tableRow row) (tableCol px py col) = true) ↔
      ∃ row col : Fin 4, row ≠ 0 ∧ col ≠ 0 ∧
        jaddDegenerate (build px py)[4 * row.val] (build px py)[col.val] = true := by
  simp only [Fin.exists_fin_succ (n := 3), ne_eq, not_true_eq_false, Fin.succ_ne_zero, not_false_eq_true, false_and,
    true_and, exists_false, and_false, false_or, build_row, build_col]

/-! The completions of the two commands (rules R182, R190). -/

theorem exec_buildTable_of_range {s : State} (outside : Curve.P ≤ argNat s 0 ∨ Curve.P ≤ argNat s 1) :
    exec .buildTable s = .next (raiseError .range s) :=
  congrArg Host.Outcome.next (if_pos outside)

theorem exec_buildTable_of_inRange {s : State} (x : argNat s 0 < Curve.P) (y : argNat s 1 < Curve.P) :
    exec .buildTable s = .next
      (complete
        { table := some (storeTable (build (argNat s 0) (argNat s 1)))
          degen := buildDegenerate (argNat s 0) (argNat s 1) } s) :=
  congrArg Host.Outcome.next (if_neg (by omega))

theorem tableWritten_complete {r : Results} {T : Vector Jac 16} (table : r.table = some (storeTable T)) (s : State) :
    TableWritten (complete r s) T := by
  simp [TableWritten, table]

theorem exec_shamir_of_invalid {s : State} (invalid : s.status.tableValid = false) :
    exec .shamir s = .next (raiseError .noTable s) := by
  simp [exec, execShamir, invalid]

theorem exec_shamir_of_valid {s : State} (valid : s.status.tableValid = true) :
    exec .shamir s = .next
      (complete
        { res0 := resOf (multiply (loadTable s.table) (argNat s 0) (argNat s 1)).x
          res1 := resOf (multiply (loadTable s.table) (argNat s 0) (argNat s 1)).y
          degen := multiplyDegenerate (loadTable s.table) (argNat s 0) (argNat s 1) } s) :=
  congrArg Host.Outcome.next (if_pos valid)

/-! The shifted scalars (rules R10, R192). -/

theorem mulRounds_succ (t : Vector Jac 16) (n : Nat) (m : MulState) :
    mulRounds t (n + 1) m = mulRound t (mulRounds t n m) :=
  mulRounds_add t n 1 m

theorem mulRounds_u1 (t : Vector Jac 16) (n : Nat) (m : MulState) : (mulRounds t n m).u1 = shl2^[n] m.u1 := by
  induction n generalizing m with
  | zero => rfl
  | succ n ih => rw [mulRounds, ih, mulRound_u1, Function.iterate_succ_apply]

theorem mulRounds_u2 (t : Vector Jac 16) (n : Nat) (m : MulState) : (mulRounds t n m).u2 = shl2^[n] m.u2 := by
  induction n generalizing m with
  | zero => rfl
  | succ n ih => rw [mulRounds, ih, mulRound_u2, Function.iterate_succ_apply]

theorem shl2_iterate_modEq (u n : Nat) : shl2^[n] u ≡ u * 4 ^ n [MOD 2 ^ 256] := by
  induction n with
  | zero => rw [pow_zero, mul_one]; rfl
  | succ n ih =>
    calc shl2^[n + 1] u = shl2^[n] u * 4 % 2 ^ 256 := Function.iterate_succ_apply' shl2 n u
      _ ≡ shl2^[n] u * 4 [MOD 2 ^ 256] := Nat.mod_modEq _ _
      _ ≡ u * 4 ^ n * 4 [MOD 2 ^ 256] := ih.mul_right 4
      _ = u * 4 ^ (n + 1) := by ring

/-- A scalar shifted i times has round i's digit of the original at its top. -/
theorem top2_shl2_iterate (u : Nat) {i : Nat} (round : i < 128) : top2 (shl2^[i] u) = scalarDigit u i := by
  have window : 2 ^ 256 = 2 ^ (254 - 2 * i) * 4 * 4 ^ i := by
    rw [show 4 = 2 ^ 2 from rfl, ← pow_mul, ← pow_add, ← pow_add]; congr 1; omega
  have digit : 2 ^ 254 = 2 ^ (254 - 2 * i) * 4 ^ i := by
    rw [show 4 = 2 ^ 2 from rfl, ← pow_mul, ← pow_add]; congr 1; omega
  calc top2 (shl2^[i] u) = shl2^[i] u % 2 ^ 256 / 2 ^ 254 := by unfold top2; omega
    _ = u * 4 ^ i % 2 ^ 256 / 2 ^ 254 := by rw [shl2_iterate_modEq]
    _ = u % (2 ^ (254 - 2 * i) * 4) / 2 ^ (254 - 2 * i) := by
      rw [window, digit, Nat.mul_mod_mul_right, Nat.mul_div_mul_right _ _ (by positivity)]
    _ = scalarDigit u i := Nat.mod_mul_right_div_self ..

/-- Rule R192: what a round reads of the shifted scalars is its digits of the original ones. -/
theorem top2_mulRounds (t : Vector Jac 16) (u1 u2 : Nat) {i : Nat} (round : i < 128) :
    top2 (mulRounds t i (mulStart u1 u2)).u1 = scalarDigit u1 i ∧
      top2 (mulRounds t i (mulStart u1 u2)).u2 = scalarDigit u2 i :=
  ⟨by rw [mulRounds_u1, mulStart, top2_shl2_iterate u1 round], by rw [mulRounds_u2, mulStart, top2_shl2_iterate u2 round]⟩

/-! One round (rules R166, R190, R193). -/

theorem tablePos_eq_zero_iff (u1 u2 : Nat) : tablePos u1 u2 = 0 ↔ 4 * top2 u1 + top2 u2 = 0 := Fin.ext_iff

theorem getElem_tablePos (t : Vector Jac 16) (u1 u2 : Nat) : t[tablePos u1 u2] = tableEntry t (top2 u1) (top2 u2) := by
  have inside : 4 * top2 u1 + top2 u2 < 16 := (tablePos u1 u2).isLt
  simp [tableEntry, tablePos, inside]

theorem mulDouble_acc (m : MulState) :
    (mulDouble m).acc = if m.acc.z = 0 then m.acc else jdbl (jdbl m.acc) := by
  unfold mulDouble
  split <;> rfl

theorem mulDouble_degen_iff (m : MulState) :
    (mulDouble m).degen = true ↔
      m.degen = true ∨ m.acc.z ≠ 0 ∧ (jdblDegenerate m.acc = true ∨ jdblDegenerate (jdbl m.acc) = true) := by
  unfold mulDouble
  split <;> simp_all [or_assoc]

theorem mulAdd_acc (t : Vector Jac 16) (m : MulState) :
    (mulAdd t m).acc =
      if 4 * top2 m.u1 + top2 m.u2 = 0 then m.acc
      else if m.acc.z = 0 then tableEntry t (top2 m.u1) (top2 m.u2)
      else jadd m.acc (tableEntry t (top2 m.u1) (top2 m.u2)) := by
  simp only [mulAdd, tablePos_eq_zero_iff, getElem_tablePos]
  split_ifs <;> rfl

theorem mulAdd_degen_iff (t : Vector Jac 16) (m : MulState) :
    (mulAdd t m).degen = true ↔
      m.degen = true ∨ 4 * top2 m.u1 + top2 m.u2 ≠ 0 ∧ m.acc.z ≠ 0 ∧
        jaddDegenerate m.acc (tableEntry t (top2 m.u1) (top2 m.u2)) = true := by
  simp only [mulAdd, tablePos_eq_zero_iff, getElem_tablePos]
  split_ifs <;> simp_all

theorem mulRound_acc (t : Vector Jac 16) (m : MulState) :
    (mulRound t m).acc = digitRound t (top2 m.u1) (top2 m.u2) m.acc := by
  simp only [mulRound, mulShift_acc, mulAdd_acc, mulDouble_acc, mulDouble_u1, mulDouble_u2, digitRound]

theorem mulRound_degen_iff (t : Vector Jac 16) (m : MulState) :
    (mulRound t m).degen = true ↔ m.degen = true ∨ digitRoundDegenerate t (top2 m.u1) (top2 m.u2) m.acc := by
  simp only [mulRound, mulShift_degen, mulAdd_degen_iff, mulDouble_degen_iff, mulDouble_acc, mulDouble_u1, mulDouble_u2,
    digitRoundDegenerate, or_assoc]

/-! The loop (rules R190, R196). -/

/-- The accumulator after n rounds on the digits of the original scalars. -/
def digitRounds (t : Vector Jac 16) (u1 u2 : Nat) : Nat → Jac
  | 0 => jacIdentity
  | n + 1 => digitRound t (scalarDigit u1 n) (scalarDigit u2 n) (digitRounds t u1 u2 n)

theorem mulRounds_acc (t : Vector Jac 16) (u1 u2 : Nat) {n : Nat} (rounds : n ≤ 128) :
    (mulRounds t n (mulStart u1 u2)).acc = digitRounds t u1 u2 n := by
  induction n with
  | zero => rfl
  | succ n ih =>
    obtain ⟨digit1, digit2⟩ := top2_mulRounds t u1 u2 rounds
    rw [mulRounds_succ, mulRound_acc, digit1, digit2, ih (Nat.le_of_lt rounds), digitRounds]

theorem mulRounds_degen_iff (t : Vector Jac 16) (u1 u2 : Nat) {n : Nat} (rounds : n ≤ 128) :
    (mulRounds t n (mulStart u1 u2)).degen = true ↔
      ∃ i, i < n ∧ digitRoundDegenerate t (scalarDigit u1 i) (scalarDigit u2 i) (digitRounds t u1 u2 i) := by
  induction n with
  | zero => simp [mulRounds, mulStart]
  | succ n ih =>
    obtain ⟨digit1, digit2⟩ := top2_mulRounds t u1 u2 rounds
    rw [mulRounds_succ, mulRound_degen_iff, digit1, digit2, mulRounds_acc t u1 u2 (Nat.le_of_lt rounds),
      ih (Nat.le_of_lt rounds), Nat.exists_lt_succ_right]

theorem multiply_eq_toAffine_digitRounds (t : Vector Jac 16) (u1 u2 : Nat) :
    multiply t u1 u2 = toAffine (digitRounds t u1 u2 128) :=
  congrArg toAffine (mulRounds_acc t u1 u2 le_rfl)

theorem multiplyDegenerate_iff (t : Vector Jac 16) (u1 u2 : Nat) :
    multiplyDegenerate t u1 u2 = true ↔
      ∃ i, i < 128 ∧ digitRoundDegenerate t (scalarDigit u1 i) (scalarDigit u2 i) (digitRounds t u1 u2 i) :=
  mulRounds_degen_iff t u1 u2 le_rfl

end Sys2Proof.Proofs
end

section
/-! The obligations of the table and the multiplier. -/

namespace Sys2Proof.Proofs

open Sys2Proof.Machine Sys2Proof.Laws

/-- Settles O30: BUILD_TABLE completes with build of its operands, whose rows and columns other than the first are the
chain's row and column entries. -/
theorem buildTableWritesTheChain : Obligations.BuildTableWritesTheChain := by
  refine ⟨rfl, rfl, fun s x y => ?inRange, fun s outside => ?range⟩
  case range => exact ⟨_, exec_buildTable_of_range outside, errorCompletion_raiseError .range s⟩
  case inRange =>
    refine ⟨_, build (argNat s 0) (argNat s 1), _, exec_buildTable_of_inRange x y, completedWith_complete _ s,
      ⟨rfl, rfl, rfl⟩, tableWritten_complete rfl s, rfl, rfl, rfl, rfl, rfl, rfl, rfl, ?sums, ?degenerate⟩
    case sums =>
      intro row col rowNe colNe
      obtain ⟨row, rfl⟩ := Fin.exists_succ_eq.2 rowNe
      obtain ⟨col, rfl⟩ := Fin.exists_succ_eq.2 colNe
      rw [build_sum, build_row, build_col]
    case degenerate =>
      rw [buildDegenerate_iff, exists_jaddDegenerate_iff]
      rfl

/-- Settles O33: the rounds on the shifted scalars are the rounds on the original scalars' digits, in the accumulator and in
the degenerate mark, by an induction over the rounds. -/
theorem shamirRunsTheWindowedLoop : Obligations.ShamirRunsTheWindowedLoop := by
  refine ⟨rfl, rfl, fun s invalid => ?noTable, fun s valid => ?loop⟩
  case noTable => exact ⟨_, exec_shamir_of_invalid invalid, errorCompletion_raiseError .noTable s⟩
  case loop =>
    have run := exec_shamir_of_valid valid
    rw [multiply_eq_toAffine_digitRounds] at run
    exact ⟨_, digitRounds (loadTable s.table) (argNat s 0) (argNat s 1), _, rfl, fun _ => rfl, run,
      completedWith_complete _ s, tableUntouched_complete rfl s, ⟨rfl, rfl, rfl⟩, multiplyDegenerate_iff ..⟩

end Sys2Proof.Proofs
end

section
/-! The error a command's step leaves in STATUS, in every state (rules R243, R246). `ExecEffect` says more, but asks that an
awaited request has passed the validation, which the handshake invariant does not say. -/

namespace Sys2Proof.Proofs

open Sys2Proof.Machine Sys2Proof.Laws

/-- What a step of command `i` from `s` to the given state does to STATUS.ERR: it leaves STATUS alone, completes without an
error, or raises an error the command can end with. -/
inductive ErrorEffect (i : Instr) (s : State) : State → Prop where
  | keepsStatus {t : State} (status : t.status = s.status) : ErrorEffect i s t
  | succeeds (r : Results) (noError : r.err = .noError) : ErrorEffect i s (complete r s)
  | raises (code : ErrCode) (possible : code ∈ errorsOf i) : ErrorEffect i s (raiseError code s)

theorem errorEffect_of_execEffect {i : Instr} {s t : State} (effect : ExecEffect i s) (run : exec i s = .next t) :
    ErrorEffect i s t := by
  cases effect with
  | completes r legal h =>
    cases h.symm.trans run
    by_cases noError : r.err = .noError
    · exact .succeeds r noError
    · rw [legal.error noError]
      exact .raises r.err legal.err
  | requests _ _ _ _ h => cases h.symm.trans run; exact .keepsStatus rfl
  | waits _ _ _ _ h => cases h.symm.trans run; exact .keepsStatus rfl

/-- Only VERIFY and VERIFY_STRICT read the sequencer, and a completion overwrites it. -/
theorem exec_seq_idle {i : Instr} (notVerify : i ≠ .verify) (notStrict : i ≠ .verifyStrict) (s : State) :
    exec i { s with seq := .idle } = exec i s := by
  cases i with
  | verify => exact absurd rfl notVerify
  | verifyStrict => exact absurd rfl notStrict
  | _ => rfl

/-! The completions after an accelerator's answer (rules R211, R215, R221). -/

theorem verifyAnswered_errorEffect (a : AccelResponse) (s : State) : ErrorEffect .verify s (verifyAnswered a s) := by
  cases a with
  | valid b => exact .succeeds _ rfl
  | reserved => exact .raises .accelFault (by decide)
  | unsupported => exact .succeeds _ rfl

theorem strictAnswered_errorEffect (a : AccelResponse) (s : State) :
    ErrorEffect .verifyStrict s (strictAnswered a s) := by
  cases a with
  | valid b => exact .succeeds _ rfl
  | reserved => exact .raises .accelFault (by decide)
  | unsupported => exact .raises .accelUnavailable (by decide)

theorem exec_verify_errorEffect {s t : State} (run : exec .verify s = .next t) : ErrorEffect .verify s t := by
  cases seq : s.seq with
  | idle => exact errorEffect_of_execEffect (exec_effect .verify s (by simp [seq])) run
  | run op accelEn => exact errorEffect_of_execEffect (exec_effect .verify s (by simp [seq])) run
  | waitAccel op p answer =>
    simp only [exec, execVerify, seq] at run
    cases answer with
    | none => cases run; exact .keepsStatus rfl
    | some a => cases run; exact verifyAnswered_errorEffect a s

theorem exec_verifyStrict_errorEffect {s t : State} (run : exec .verifyStrict s = .next t) :
    ErrorEffect .verifyStrict s t := by
  cases seq : s.seq with
  | idle => exact errorEffect_of_execEffect (exec_effect .verifyStrict s (by simp [seq])) run
  | run op accelEn => exact errorEffect_of_execEffect (exec_effect .verifyStrict s (by simp [seq])) run
  | waitAccel op p answer =>
    simp only [exec, execVerifyStrict, seq] at run
    cases answer with
    | none => cases run; exact .keepsStatus rfl
    | some a => cases run; exact strictAnswered_errorEffect a s

/-- A command that does not read the sequencer does what it does in IDLE, where no request is awaited. -/
theorem exec_errorEffect {i : Instr} {s t : State} (run : exec i s = .next t) : ErrorEffect i s t := by
  by_cases verify : i = .verify
  · subst verify; exact exec_verify_errorEffect run
  by_cases strict : i = .verifyStrict
  · subst strict; exact exec_verifyStrict_errorEffect run
  have idle : ErrorEffect i { s with seq := .idle } t :=
    errorEffect_of_execEffect (exec_effect i _ (by simp)) ((exec_seq_idle verify strict s).trans run)
  cases idle with
  | keepsStatus status => exact .keepsStatus status
  | succeeds r noError => exact .succeeds r noError
  | raises code possible => exact .raises code possible

/-- Outside IDLE the handshake invariant leaves no error in STATUS (rule R29). -/
theorem err_of_running {s : State} (inv : HandshakeInv s) (running : s.seq ≠ .idle) : s.status.err = .noError :=
  (inv.quiet (inv.busy_iff.2 running)).1

end Sys2Proof.Proofs
end

section
/-! The obligations of the errors. -/

namespace Sys2Proof.Proofs

open Sys2Proof.Machine

/-- Settles O46: a step that ends with an error can only have raised it, since the other steps complete without an error or
leave STATUS alone, and STATUS holds no error while the command runs. -/
theorem everyErrorIsPrecise : Obligations.EveryErrorIsPrecise := by
  intro i s t inv running run error
  cases exec_errorEffect run with
  | keepsStatus status => exact absurd (status ▸ err_of_running inv running) error
  | succeeds r noError => exact absurd noError error
  | raises code _ => exact errorCompletion_raiseError code s

end Sys2Proof.Proofs
end

section
/-! Both resets: the block they leave, and what a late response does to it (rules R43, R270, R271). -/

namespace Sys2Proof.Proofs

open Sys2Proof.Machine

theorem blockIsReset_resetBlock (s : State) : BlockIsReset (resetBlock s) := rfl

/-- A response that no request awaits is ignored (rule R43). -/
theorem takeResponse_of_not_pending {s : State} (notPending : s.accelPending = false) (code : BitVec 2) :
    takeResponse code s = s := if_neg (Bool.eq_false_iff.1 notPending)

theorem accelPending_of_blockIsReset {t : State} (isReset : BlockIsReset t) : t.accelPending = false :=
  congrArg State.accelPending isReset

theorem step_of_hardReset {s : State} (turn : nextTurn s = .hardReset) : step s = .next (resetBlock (popTurn s)) := by
  simp only [step, turn, hardReset]

end Sys2Proof.Proofs
end

section
/-! The obligation of the resets. -/

namespace Sys2Proof.Proofs

open Sys2Proof.Machine

/-- Settles O12: both resets are `resetBlock`, which abandons a pending request, so that no response finds one. -/
theorem bothResetsResetTheBlock : Obligations.BothResetsResetTheBlock := by
  refine ⟨fun s v softReset => ?soft, fun s turn => ?hard⟩
  case soft =>
    have isReset := blockIsReset_resetBlock s
    exact ⟨resetBlock s, by rw [memWrite_ctrl, writeCtrl_of_softReset softReset], isReset,
      takeResponse_of_not_pending (accelPending_of_blockIsReset isReset)⟩
  case hard =>
    exact ⟨resetBlock (popTurn s), step_of_hardReset turn, blockIsReset_resetBlock _, by
      rw [resetBlock_host, popTurn_host]⟩

end Sys2Proof.Proofs
end

section
/-! What a command's step does in every state, and what one step of the machine does: the inversions that the invariants of
the whole machine are proved from (rules R5, R33, R40, R70, R280). -/

namespace Sys2Proof.Proofs

open Sys2Proof.Machine Sys2Proof.Laws

/-! A command's step in every state. `ExecEffect` says more, but asks that an awaited request has passed the validation. -/

/-- The table a completion of command `i` writes, if any: only three commands write one, and its entry 0 is the identity
(rules R33, R34). -/
structure TableResult (i : Instr) (r : Results) : Prop where
  writer : r.table ≠ none → writesTable i = true
  zero : ∀ T, r.table = some T → T[0] = { x := 0, y := 0, z := 0 }

/-- What a step of command `i` from `s` to the given state is: a completion, a request, or a wait for its answer. -/
inductive ExecOutcome (i : Instr) (s : State) : State → Prop where
  | completes (r : Results) (table : TableResult i r) : ExecOutcome i s (complete r s)
  | requests (op : i = .verify ∨ i = .verifyStrict) : ExecOutcome i s (sendRequest i s)
  | waits (op : i = .verify ∨ i = .verifyStrict) : ExecOutcome i s s

theorem storeTable_build_zero (px py : Nat) : (storeTable (build px py))[0] = { x := 0, y := 0, z := 0 } := rfl

theorem tableResult_of_legal {i : Instr} {r : Results} (legal : LegalResults i r) : TableResult i r where
  writer written := by
    obtain ⟨T, h⟩ := Option.ne_none_iff_exists'.1 written
    exact (legal.table T h).1
  zero T h := by
    obtain ⟨-, px, py, -, -, rfl⟩ := legal.table T h
    exact storeTable_build_zero px py

theorem tableResult_of_none {i : Instr} {r : Results} (noTable : r.table = none) : TableResult i r where
  writer written := absurd noTable written
  zero T h := by simp [noTable] at h

theorem exec_outcome_of_effect {i : Instr} {s : State} (effect : ExecEffect i s) :
    ∃ t, exec i s = .next t ∧ ExecOutcome i s t := by
  cases effect with
  | completes r legal h => exact ⟨_, h, .completes r (tableResult_of_legal legal)⟩
  | requests op _ _ _ h => exact ⟨_, h, .requests op⟩
  | waits op _ _ _ h => exact ⟨_, h, .waits op⟩

/-- VERIFY's completion after an answer is a completion step, whatever the operands (rules R211, R221). -/
theorem verifyAnswered_outcome (a : AccelResponse) (s : State) : ExecOutcome .verify s (verifyAnswered a s) := by
  cases a with
  | valid b => exact .completes _ (tableResult_of_none rfl)
  | reserved => exact .completes _ (tableResult_of_none rfl)
  | unsupported =>
    exact .completes _ ⟨fun _ => rfl, fun T h => by cases h; exact storeTable_build_zero _ _⟩

/-- VERIFY_STRICT's completion after an answer writes no table (rule R215). -/
theorem strictAnswered_outcome (a : AccelResponse) (s : State) : ExecOutcome .verifyStrict s (strictAnswered a s) := by
  cases a with
  | valid b => exact .completes _ (tableResult_of_none rfl)
  | reserved => exact .completes _ (tableResult_of_none rfl)
  | unsupported => exact .completes _ (tableResult_of_none rfl)

theorem exec_verify_outcome (s : State) : ∃ t, exec .verify s = .next t ∧ ExecOutcome .verify s t := by
  cases seq : s.seq with
  | idle => exact exec_outcome_of_effect (exec_effect .verify s (by simp [seq]))
  | run op accelEn => exact exec_outcome_of_effect (exec_effect .verify s (by simp [seq]))
  | waitAccel op p answer =>
    cases answer with
    | none => exact ⟨s, by simp only [exec, execVerify, seq], .waits (.inl rfl)⟩
    | some a => exact ⟨_, by simp only [exec, execVerify, seq], verifyAnswered_outcome a s⟩

theorem exec_verifyStrict_outcome (s : State) :
    ∃ t, exec .verifyStrict s = .next t ∧ ExecOutcome .verifyStrict s t := by
  cases seq : s.seq with
  | idle => exact exec_outcome_of_effect (exec_effect .verifyStrict s (by simp [seq]))
  | run op accelEn => exact exec_outcome_of_effect (exec_effect .verifyStrict s (by simp [seq]))
  | waitAccel op p answer =>
    cases answer with
    | none => exact ⟨s, by simp only [exec, execVerifyStrict, seq], .waits (.inr rfl)⟩
    | some a => exact ⟨_, by simp only [exec, execVerifyStrict, seq], strictAnswered_outcome a s⟩

/-- Every command answers a next state in every state; a command that does not read the sequencer does what it does in
IDLE. -/
theorem exec_outcome (i : Instr) (s : State) : ∃ t, exec i s = .next t ∧ ExecOutcome i s t := by
  by_cases verify : i = .verify
  · subst verify; exact exec_verify_outcome s
  by_cases strict : i = .verifyStrict
  · subst strict; exact exec_verifyStrict_outcome s
  obtain ⟨t, run, idle⟩ := exec_outcome_of_effect (exec_effect i { s with seq := .idle } (by simp))
  refine ⟨t, (exec_seq_idle verify strict s).symm.trans run, ?_⟩
  cases idle with
  | completes r table => exact .completes r table
  | requests op => exact absurd op (not_or.2 ⟨verify, strict⟩)
  | waits op => exact absurd op (not_or.2 ⟨verify, strict⟩)

theorem execOutcome_of_run {i : Instr} {s t : State} (run : exec i s = .next t) : ExecOutcome i s t := by
  obtain ⟨t', run', outcome⟩ := exec_outcome i s
  cases run'.symm.trans run
  exact outcome

/-! One step of the machine. -/

/-- The host's turn on a write line that the bus port admits (rules R63, R98). -/
theorem hostTurn_write {s : State} {size off : Nat} {e : HostExpr}
    (line : s.host.program[s.host.pos]? = some (.write size off e)) (ok : accessOk size off = true) :
    hostTurn s =
      .next (hostAdvance (writeLoc (BitVec.ofNat 32 (evalExpr s.host.vars e)) s (locate off))) := by
  simp only [hostTurn, line, hostLine, memWrite, ok, if_true]

/-- What a step from `s` to the given state is (rule R70): the host's write, a change of the host alone, a turn of the
sequencer that completes an ILLEGAL word or runs a command, a response, or a hardware reset. -/
inductive StepEffect (s : State) : State → Prop where
  | writes (size off : Nat) (e : HostExpr) (turn : nextTurn s = .host)
      (line : s.host.program[s.host.pos]? = some (.write size off e)) (ok : accessOk size off = true) :
      StepEffect s (hostAdvance
        (writeLoc (BitVec.ofNat 32 (evalExpr s.host.vars e)) (popTurn s) (locate off)))
  | hostOnly (h : HostAgent) : StepEffect s { popTurn s with host := h }
  | illegal (accelEn : Bool) (run : s.seq = .run .illegal accelEn) : StepEffect s (completeIllegal (popTurn s))
  | command (i : Instr) (t : State) (turn : nextTurn s = .sequencer)
      (running : runningOp s = some (.command i))
      (run : exec i (popTurn s) = .next t) : StepEffect s t
  | response (code : BitVec 2) : StepEffect s (takeResponse code (popTurn s))
  | hardReset : StepEffect s (resetBlock (popTurn s))

theorem stepEffect_of_hostTurn {s t : State} (turn : nextTurn s = .host) (step : hostTurn (popTurn s) = .next t) :
    StepEffect s t := by
  cases hostTurn_effect (popTurn s) with
  | writes size off v line ok h =>
    obtain ⟨e, line⟩ := line
    cases (hostTurn_write line ok).symm.trans step
    exact .writes size off e turn line ok
  | localOnly h' _ _ h => cases h.symm.trans step; exact .hostOnly h'
  | busError size off line bad h => cases h.symm.trans step

theorem runningOp_eq_command_iff {s : State} {i : Instr} :
    runningOp s = some (.command i) ↔
      (∃ accelEn, s.seq = .run (.command i) accelEn) ∨ ∃ p a, s.seq = .waitAccel i p a := by
  unfold runningOp
  cases s.seq <;> simp

theorem stepEffect_of_sequencerTurn {s t : State} (turn : nextTurn s = .sequencer)
    (step : sequencerTurn (popTurn s) = .next t) : StepEffect s t := by
  rcases sequencerTurn_cases (popTurn s) with ⟨-, h⟩ | ⟨⟨en, run⟩, h⟩ | ⟨i, running, h⟩
  · cases h.symm.trans step; exact .hostOnly s.host
  · cases h.symm.trans step; exact .illegal en run
  · exact .command i t turn (runningOp_eq_command_iff.2 running) (h.symm.trans step)

theorem stepEffect {s t : State} (h : step s = .next t) : StepEffect s t := by
  rcases step_cases s with ⟨turn, e⟩ | ⟨turn, e⟩ | ⟨code, -, e⟩ | ⟨-, e⟩
  · exact stepEffect_of_hostTurn turn (e.symm.trans h)
  · exact stepEffect_of_sequencerTurn turn (e.symm.trans h)
  · cases e.symm.trans h; exact .response code
  · cases e.symm.trans h; exact .hardReset

end Sys2Proof.Proofs
end

section
/-! The handshake invariant: every operation that writes STATUS or the sequencer keeps it (rules R29, R40). -/

namespace Sys2Proof.Proofs

open Sys2Proof.Machine Sys2Proof.Laws

/-- The handshake is a property of BUSY, DONE, ERR, ACCEL_USED, DEGEN and of whether the sequencer is IDLE. -/
theorem handshakeInv_congr {s t : State} (inv : HandshakeInv s) (status : t.status = s.status)
    (seq : t.seq = .idle ↔ s.seq = .idle) : HandshakeInv t where
  busy_iff := by rw [status, inv.busy_iff, not_iff_not, seq]
  not_both := status ▸ inv.not_both
  quiet := status ▸ inv.quiet

theorem handshakeInv_reset : HandshakeInv State.reset := ⟨by simp, by simp, by simp⟩

theorem handshakeInv_accept (w : Word) (s : State) : HandshakeInv (accept w s) := ⟨by simp, by simp, by simp⟩

theorem handshakeInv_complete (r : Results) (s : State) : HandshakeInv (complete r s) := ⟨by simp, by simp, by simp⟩

theorem handshakeInv_busyWrite {s : State} (inv : HandshakeInv s) :
    HandshakeInv { s with status := statusBusyWrite s.status } := ⟨inv.busy_iff, inv.not_both, inv.quiet⟩

theorem handshakeInv_writeLoc {s : State} (inv : HandshakeInv s) (v : Word) (l : Loc) :
    HandshakeInv (writeLoc v s l) := by
  rcases writeLoc_cases v s l with
    h | ⟨-, -, h⟩ | ⟨-, -, h⟩ | ⟨-, -, h⟩ | ⟨-, -, h⟩ | ⟨-, -, h⟩ | ⟨_, _, -, -, h⟩ <;> rw [h]
  case inl => exact inv
  case inr.inl => exact handshakeInv_congr handshakeInv_reset rfl Iff.rfl
  case inr.inr.inr.inl => exact handshakeInv_accept v s
  case inr.inr.inr.inr.inl => exact handshakeInv_busyWrite inv
  all_goals exact handshakeInv_congr inv rfl Iff.rfl

theorem latchAnswer_eq_idle_iff (a : AccelResponse) (q : Seq) : latchAnswer a q = .idle ↔ q = .idle := by
  cases q with
  | waitAccel op p answer => cases answer <;> simp [latchAnswer]
  | idle | run => simp [latchAnswer]

theorem handshakeInv_takeResponse {s : State} (inv : HandshakeInv s) (code : BitVec 2) :
    HandshakeInv (takeResponse code s) := by
  rcases takeResponse_cases code s with ⟨-, h⟩ | ⟨-, h⟩ <;> rw [h]
  · exact inv
  · exact handshakeInv_congr inv rfl (latchAnswer_eq_idle_iff _ _)

theorem handshakeInv_exec {i : Instr} {s t : State} (inv : HandshakeInv s) (running : s.seq ≠ .idle)
    (run : exec i s = .next t) : HandshakeInv t := by
  cases execOutcome_of_run run with
  | completes r _ => exact handshakeInv_complete r s
  | requests _ => exact handshakeInv_congr inv rfl (by simp [running])
  | waits _ => exact inv

/-- A sequencer that runs a command is not IDLE (rule R40). -/
theorem seq_ne_idle_of_running {s : State} {i : Instr} (running : runningOp s = some (.command i)) : s.seq ≠ .idle := by
  rcases runningOp_eq_command_iff.1 running with ⟨_, h⟩ | ⟨_, _, h⟩ <;> simp [h]

end Sys2Proof.Proofs
end

section
/-! The obligation of the handshake. -/

namespace Sys2Proof.Proofs

open Sys2Proof.Machine

/-- Settles O53: acceptance and completion establish the handshake, and every other event leaves STATUS's handshake bits and
the sequencer's being IDLE as they are. -/
theorem everyStepKeepsTheHandshake : Obligations.EveryStepKeepsTheHandshake := by
  intro s t inv h
  have popped : HandshakeInv (popTurn s) := handshakeInv_congr inv rfl Iff.rfl
  cases stepEffect h with
  | writes size off e _ _ _ => exact handshakeInv_congr (handshakeInv_writeLoc popped _ _) rfl Iff.rfl
  | hostOnly h => exact handshakeInv_congr popped rfl Iff.rfl
  | illegal _ _ => exact handshakeInv_complete _ _
  | command i t _ running run => exact handshakeInv_exec popped (seq_ne_idle_of_running running) run
  | response code => exact handshakeInv_takeResponse popped code
  | hardReset => exact handshakeInv_congr handshakeInv_reset rfl Iff.rfl

end Sys2Proof.Proofs
end

section
/-! The block's whole invariant, one part of it at a time: the table's and the accelerator's (rules R33 to R35, R40, R43,
R220, R221). -/

namespace Sys2Proof.Proofs

open Sys2Proof.Machine Sys2Proof.Laws

/-! The table invariant. -/

/-- The table invariant is a property of the table and of TABLE_VALID. -/
theorem tableInv_congr {s t : State} (inv : TableInv s) (table : t.table = s.table)
    (valid : t.status.tableValid = s.status.tableValid) : TableInv t where
  zero := by rw [← inv.zero]; simp only [table]
  inRange k := by simpa only [table] using inv.inRange k
  invalid h := by rw [table]; exact inv.invalid (valid.symm.trans h)

theorem tableInv_reset : TableInv State.reset where
  zero := rfl
  inRange k := by
    simp only [reset_table, Fin.getElem_fin, Vector.getElem_replicate]
    exact ⟨P_pos, P_pos, P_pos⟩
  invalid _ := rfl

theorem entryInRange_toEntry {p : Jac} (below : JacLt p) : entryInRange (toEntry p) := by
  obtain ⟨ltX, ltY, ltZ⟩ := below
  simp only [entryInRange, toEntry, resOf_toNat_of_lt_P, ltX, ltY, ltZ, and_self]

/-- A completion that writes no table keeps the invariant, and one that writes a built table establishes it. -/
theorem tableInv_complete {i : Instr} {r : Results} (legal : LegalResults i r) {s : State} (inv : TableInv s) :
    TableInv (complete r s) := by
  cases written : r.table with
  | none => exact tableInv_congr inv (by simp [written]) (by simp [written])
  | some T =>
    obtain ⟨-, px, py, x, y, rfl⟩ := legal.table T written
    have table : (complete r s).table = storeTable (build px py) := by simp [written]
    exact
      { zero := by simp only [table]; rfl
        inRange := fun k => by
          simp only [table, storeTable_get]
          exact entryInRange_toEntry (build_lt x y k)
        invalid := fun h => by simp [written] at h }

theorem tableInv_writeLoc {s : State} (inv : TableInv s) (v : Word) (l : Loc) : TableInv (writeLoc v s l) := by
  rcases writeLoc_cases v s l with
    h | ⟨-, -, h⟩ | ⟨-, -, h⟩ | ⟨-, -, h⟩ | ⟨-, -, h⟩ | ⟨-, -, h⟩ | ⟨_, _, -, -, h⟩ <;> rw [h]
  case inr.inl => exact tableInv_congr tableInv_reset rfl rfl
  all_goals exact tableInv_congr inv rfl rfl

theorem tableInv_takeResponse {s : State} (inv : TableInv s) (code : BitVec 2) : TableInv (takeResponse code s) := by
  rcases takeResponse_cases code s with ⟨-, h⟩ | ⟨-, h⟩ <;> rw [h]
  · exact inv
  · exact tableInv_congr inv rfl rfl

/-! The accelerator invariant. -/

/-- The accelerator invariant is a property of accel_pending, the sequencer and the operands. -/
theorem accelInv_congr {s t : State} (inv : AccelInv s) (pending : t.accelPending = s.accelPending) (seq : t.seq = s.seq)
    (args : t.args = s.args) : AccelInv t where
  pending_iff := by rw [pending, seq]; exact inv.pending_iff
  request op p a h := by
    have payload : requestPayload t = requestPayload s := by simp only [requestPayload, args]
    have wellFormed : wellFormedInput t = wellFormedInput s := by simp only [wellFormedInput, argNat, args]
    rw [payload, wellFormed]
    exact inv.request op p a (seq ▸ h)

/-- While no request is awaited nor answered, the invariant says only that accel_pending is 0. -/
theorem accelInv_of_not_waiting {s : State} (pending : s.accelPending = false)
    (notWaiting : ∀ op p a, s.seq ≠ .waitAccel op p a) : AccelInv s where
  pending_iff := by simp [pending, notWaiting]
  request op p a h := absurd h (notWaiting op p a)

theorem accelInv_reset : AccelInv State.reset := accelInv_of_not_waiting rfl (by simp)

theorem accelPending_eq_false {s : State} (inv : AccelInv s) (answered : ∀ op p, s.seq ≠ .waitAccel op p none) :
    s.accelPending = false := by
  rw [Bool.eq_false_iff, ne_eq, inv.pending_iff]
  rintro ⟨op, p, h⟩
  exact answered op p h

/-- While no command runs the sequencer is IDLE (rule R40). -/
theorem seq_idle_of_not_busy {s : State} (inv : HandshakeInv s) (idle : s.status.busy = false) : s.seq = .idle :=
  not_not.1 fun h => Bool.false_ne_true (idle.symm.trans (inv.busy_iff.2 h))

/-- Acceptance and a write to an ARG register happen only in IDLE, so no request loses its operands. -/
theorem accelInv_writeLoc {s : State} (handshake : HandshakeInv s) (inv : AccelInv s) (v : Word) (l : Loc) :
    AccelInv (writeLoc v s l) := by
  rcases writeLoc_cases v s l with
    h | ⟨-, -, h⟩ | ⟨-, -, h⟩ | ⟨-, idle, h⟩ | ⟨-, -, h⟩ | ⟨-, -, h⟩ | ⟨_, _, -, idle, h⟩ <;> rw [h]
  case inr.inl => exact accelInv_congr accelInv_reset rfl rfl rfl
  case inr.inr.inr.inl =>
    have seq := seq_idle_of_not_busy handshake idle
    have pending : s.accelPending = false := accelPending_eq_false inv (by simp [seq])
    exact accelInv_of_not_waiting pending (by simp)
  case inr.inr.inr.inr.inr.inr =>
    have seq := seq_idle_of_not_busy handshake idle
    have pending : s.accelPending = false := accelPending_eq_false inv (by simp [seq])
    exact accelInv_of_not_waiting pending (by simp [seq])
  all_goals exact accelInv_congr inv rfl rfl rfl

theorem accelInv_complete {s : State} (pending : s.accelPending = false) (r : Results) : AccelInv (complete r s) :=
  accelInv_of_not_waiting pending (by simp)

theorem accelInv_sendRequest {i : Instr} {s : State} (op : i = .verify ∨ i = .verifyStrict)
    (valid : wellFormedInput s = true) (present : Config.accelPresent = true) : AccelInv (sendRequest i s) where
  pending_iff := by simp
  request o p a h := by
    cases h
    exact ⟨op, rfl, valid, present⟩

/-- The response that accel_pending announces is latched for the completion that follows. -/
theorem accelInv_takeResponse {s : State} (inv : AccelInv s) (code : BitVec 2) : AccelInv (takeResponse code s) := by
  rcases takeResponse_cases code s with ⟨-, h⟩ | ⟨pending, h⟩ <;> rw [h]
  · exact inv
  · obtain ⟨op, p, seq⟩ := inv.pending_iff.1 pending
    exact
      { pending_iff := by simp [seq, latchAnswer]
        request := fun o q a h => by
          simp only [seq, latchAnswer] at h
          cases h
          exact inv.request op p none seq }

/-- A sequencer that waits for an answer leaves the state as it is. -/
theorem exec_of_awaiting {i : Instr} {s : State} {o : Instr} {p : Payload} (op : i = .verify ∨ i = .verifyStrict)
    (seq : s.seq = .waitAccel o p none) : exec i s = .next s := by
  rcases op with rfl | rfl
  · simp only [exec, execVerify, seq]
  · simp only [exec, execVerifyStrict, seq]

/-! The whole invariant. -/

theorem blockInv_congr {s t : State} (inv : BlockInv s) (status : t.status = s.status) (table : t.table = s.table)
    (pending : t.accelPending = s.accelPending) (seq : t.seq = s.seq) (args : t.args = s.args) : BlockInv t where
  handshake := handshakeInv_congr inv.handshake status (by rw [seq])
  table := tableInv_congr inv.table table (by rw [status])
  accel := accelInv_congr inv.accel pending seq args

theorem blockInv_popTurn {s : State} (inv : BlockInv s) : BlockInv (popTurn s) := blockInv_congr inv rfl rfl rfl rfl rfl

theorem blockInv_reset : BlockInv State.reset := ⟨handshakeInv_reset, tableInv_reset, accelInv_reset⟩

theorem blockInv_writeLoc {s : State} (inv : BlockInv s) (v : Word) (l : Loc) : BlockInv (writeLoc v s l) where
  handshake := handshakeInv_writeLoc inv.handshake v l
  table := tableInv_writeLoc inv.table v l
  accel := accelInv_writeLoc inv.handshake inv.accel v l

theorem blockInv_takeResponse {s : State} (inv : BlockInv s) (code : BitVec 2) : BlockInv (takeResponse code s) where
  handshake := handshakeInv_takeResponse inv.handshake code
  table := tableInv_takeResponse inv.table code
  accel := accelInv_takeResponse inv.accel code

/-- The running command's effect, with everything `ExecEffect` says of it: the invariant holds the validation of an awaited
request. -/
theorem execEffect_of_blockInv {s : State} (inv : BlockInv s) (i : Instr) : ExecEffect i s := by
  refine exec_effect i s fun o p a h => ?_
  obtain ⟨-, -, valid, -⟩ := inv.accel.request o p a h
  exact valid

/-- The command that runs waits for no answer when it completes, so accel_pending is 0 then. -/
theorem accelPending_of_completing {i : Instr} {s t : State} (inv : BlockInv s)
    (running : runningOp s = some (.command i)) (run : exec i s = .next t) (idle : t.seq = .idle) : s.accelPending = false := by
  refine accelPending_eq_false inv.accel fun o p seq => ?_
  obtain ⟨op, -⟩ := inv.accel.request o p none seq
  have same : o = i := by
    rcases runningOp_eq_command_iff.1 running with ⟨en, h⟩ | ⟨q, a, h⟩
    · cases h.symm.trans seq
    · cases h.symm.trans seq; rfl
  cases (exec_of_awaiting (same ▸ op) seq).symm.trans run
  cases idle.symm.trans seq

theorem blockInv_exec {i : Instr} {s t : State} (inv : BlockInv s)
    (running : runningOp s = some (.command i)) (run : exec i s = .next t) : BlockInv t := by
  have handshake := handshakeInv_exec inv.handshake (seq_ne_idle_of_running running) run
  cases execEffect_of_blockInv inv i with
  | completes r legal h =>
    cases h.symm.trans run
    exact ⟨handshake, tableInv_complete legal inv.table,
      accelInv_complete (accelPending_of_completing inv running run rfl) r⟩
  | requests op launched valid present h =>
    cases h.symm.trans run
    exact ⟨handshake, tableInv_congr inv.table rfl rfl, accelInv_sendRequest op valid present⟩
  | waits _ _ _ _ h => cases h.symm.trans run; exact inv

theorem blockInv_completeIllegal {s : State} {accelEn : Bool} (inv : BlockInv s) (run : s.seq = .run .illegal accelEn) :
    BlockInv (completeIllegal s) where
  handshake := handshakeInv_complete _ s
  table := tableInv_congr inv.table rfl (Bool.or_false _)
  accel := accelInv_complete (accelPending_eq_false inv.accel (by simp [run])) _

end Sys2Proof.Proofs
end

section
/-! The obligations of the block's invariant. -/

namespace Sys2Proof.Proofs

open Sys2Proof.Machine

/-- Settles O54: each event keeps the three parts; a completion comes with no request outstanding, and a request carries
operands that passed the validation. -/
theorem everyStepKeepsTheBlockInvariant : Obligations.EveryStepKeepsTheBlockInvariant := by
  intro s t inv h
  have popped := blockInv_popTurn inv
  cases stepEffect h with
  | writes size off e _ _ _ => exact blockInv_congr (blockInv_writeLoc popped _ _) rfl rfl rfl rfl rfl
  | hostOnly h => exact blockInv_congr popped rfl rfl rfl rfl rfl
  | illegal accelEn run => exact blockInv_completeIllegal popped run
  | command i t _ running run => exact blockInv_exec popped running run
  | response code => exact blockInv_takeResponse popped code
  | hardReset => exact blockInv_congr blockInv_reset rfl rfl rfl rfl rfl

/-- Settles O52: at reset nothing runs, every table entry is the identity, and the host has nothing to perform. -/
theorem blockInvHoldsAtReset : Obligations.BlockInvHoldsAtReset := ⟨blockInv_reset, rfl, rfl⟩

end Sys2Proof.Proofs
end

section
/-! What each kind of event leaves unchanged, and the host's own invariant: the frames of the window's writes, of the
commands and of the responses (rules R21, R30, R33 to R35, R43, R63, R98). -/

namespace Sys2Proof.Proofs

open Sys2Proof.Machine Sys2Proof.Laws

/-! The frame of a command's step. -/

theorem tableUntouched_of_execOutcome {i : Instr} {s t : State} (outcome : ExecOutcome i s t)
    (notWriter : writesTable i = false) : TableUntouched s t := by
  cases outcome with
  | completes r table =>
    refine tableUntouched_complete ?_ s
    by_contra written
    exact Bool.false_ne_true (notWriter.symm.trans (table.writer written))
  | requests _ => exact ⟨rfl, rfl⟩
  | waits _ => exact ⟨rfl, rfl⟩

theorem tableValid_of_execOutcome {i : Instr} {s t : State} (outcome : ExecOutcome i s t)
    (valid : s.status.tableValid = true) : t.status.tableValid = true := by
  cases outcome with
  | completes r _ => simp [valid]
  | requests _ => exact valid
  | waits _ => exact valid

theorem accelPending_of_execOutcome {i : Instr} {s t : State} (outcome : ExecOutcome i s t) (notVerify : i ≠ .verify)
    (notStrict : i ≠ .verifyStrict) : t.accelPending = s.accelPending := by
  cases outcome with
  | completes r _ => rfl
  | requests op => exact absurd op (not_or.2 ⟨notVerify, notStrict⟩)
  | waits _ => rfl

theorem host_of_execOutcome {i : Instr} {s t : State} (outcome : ExecOutcome i s t) : t.host = s.host := by
  cases outcome <;> rfl

theorem args_of_execOutcome {i : Instr} {s t : State} (outcome : ExecOutcome i s t) : t.args = s.args := by
  cases outcome <;> rfl

theorem doneIrq_of_execOutcome {i : Instr} {s t : State} (outcome : ExecOutcome i s t) :
    t.doneIrq = true ∨ t.doneIrq = s.doneIrq := by
  cases outcome with
  | completes _ _ => exact .inl rfl
  | requests _ => exact .inr rfl
  | waits _ => exact .inr rfl

theorem writesTable_iff (i : Instr) : writesTable i = true ↔ i = .buildTable ∨ i = .verify ∨ i = .recover := by
  cases i <;> decide

/-- A step that changes the table writes it, and so sets TABLE_VALID (rule R35). -/
theorem writes_of_execOutcome {i : Instr} {s t : State} (outcome : ExecOutcome i s t) (changed : t.table ≠ s.table) :
    writesTable i = true ∧ t.status.tableValid = true := by
  cases outcome with
  | completes r table =>
    cases written : r.table with
    | none => simp [written] at changed
    | some T => exact ⟨table.writer (by simp [written]), by simp [written]⟩
  | requests _ => exact absurd rfl changed
  | waits _ => exact absurd rfl changed

theorem zero_of_table_eq {T T' : Vector Entry 16} (same : T' = T) (zero : T[0] = { x := 0, y := 0, z := 0 }) :
    T'[0] = { x := 0, y := 0, z := 0 } := same ▸ zero

theorem table_zero_of_execOutcome {i : Instr} {s t : State} (outcome : ExecOutcome i s t)
    (zero : s.table[0] = { x := 0, y := 0, z := 0 }) : t.table[0] = { x := 0, y := 0, z := 0 } := by
  cases outcome with
  | completes r table =>
    cases written : r.table with
    | none => simpa [written] using zero
    | some T => simpa [written] using table.zero T written
  | requests _ => exact zero
  | waits _ => exact zero

/-! The frame of a write to the window. -/

theorem table_of_blockIsReset {t : State} (isReset : BlockIsReset t) : t.table = State.reset.table := by
  have table := congrArg State.table isReset
  exact table

/-- A write resets the block, or keeps the table and TABLE_VALID. -/
theorem writeLoc_table (v : Word) (s : State) (l : Loc) :
    BlockIsReset (writeLoc v s l) ∨ TableUntouched s (writeLoc v s l) := by
  rcases writeLoc_cases v s l with
    h | ⟨-, -, h⟩ | ⟨-, -, h⟩ | ⟨-, -, h⟩ | ⟨-, -, h⟩ | ⟨-, -, h⟩ | ⟨_, _, -, -, h⟩ <;> rw [h]
  case inr.inl => exact .inl (blockIsReset_resetBlock s)
  all_goals exact .inr ⟨rfl, rfl⟩

/-- While a command runs a write resets the block, or keeps the operands (rules R21, R63). -/
theorem writeLoc_args_of_busy {s : State} (busy : s.status.busy = true) (v : Word) (l : Loc) :
    BlockIsReset (writeLoc v s l) ∨ (writeLoc v s l).args = s.args := by
  rcases writeLoc_cases v s l with
    h | ⟨-, -, h⟩ | ⟨-, -, h⟩ | ⟨-, -, h⟩ | ⟨-, -, h⟩ | ⟨-, -, h⟩ | ⟨_, _, -, idle, h⟩
  case inr.inl => exact .inl (h ▸ blockIsReset_resetBlock s)
  case inr.inr.inr.inr.inr.inr => exact absurd (idle.symm.trans busy) Bool.false_ne_true
  all_goals exact .inr (by simp [h])

/-- A write resets the block, or is a write of 1 to IRQ_STATUS bit 0, or keeps DONE_IRQ (rules R30, R63). -/
theorem writeLoc_doneIrq (v : Word) (s : State) (l : Loc) :
    BlockIsReset (writeLoc v s l) ∨ (l = .irqStatus ∧ v.getLsbD 0 = true) ∨ (writeLoc v s l).doneIrq = s.doneIrq := by
  rcases writeLoc_cases v s l with
    h | ⟨-, -, h⟩ | ⟨-, -, h⟩ | ⟨-, -, h⟩ | ⟨-, -, h⟩ | ⟨loc, bit, h⟩ | ⟨_, _, -, -, h⟩
  case inr.inl => exact .inl (h ▸ blockIsReset_resetBlock s)
  case inr.inr.inr.inr.inr.inl => exact .inr (.inl ⟨loc, bit⟩)
  all_goals exact .inr (.inr (by simp [h]))

theorem locate_eq_irqStatus {off : Nat} (h : locate off = .irqStatus) : off = 0x014 := by
  unfold locate at h
  split_ifs at h
  assumption

/-- Bit 0 of a bus write's word is the parity of the host's value (rule R98). -/
theorem getLsbD_zero_ofNat (n : Nat) : (BitVec.ofNat 32 n).getLsbD 0 = true ↔ n % 2 = 1 := by
  rw [BitVec.getLsbD_ofNat, Nat.testBit_zero]
  simp

/-! The frame of a response. -/

/-- A response changes accel_pending, the sequencer and the draw counter alone (rules R43, R220). -/
theorem takeResponse_frame (code : BitVec 2) (s : State) :
    (takeResponse code s).args = s.args ∧ (takeResponse code s).table = s.table ∧
      (takeResponse code s).status = s.status ∧ (takeResponse code s).doneIrq = s.doneIrq ∧
      (takeResponse code s).host = s.host := by
  rcases takeResponse_cases code s with ⟨-, h⟩ | ⟨-, h⟩ <;> rw [h] <;> exact ⟨rfl, rfl, rfl, rfl, rfl⟩

/-! The host's invariant. -/

/-- The host's invariant is a property of its program and of its variables. -/
theorem hostInv_of_agent {s t : State} (inv : HostInv s) (program : t.host.program = s.host.program)
    (vars : varsWf s.host.vars = true → varsWf t.host.vars = true) : HostInv t := by
  obtain ⟨wf, canonical⟩ := inv
  exact ⟨program ▸ wf, vars canonical⟩

theorem hostInv_congr {s t : State} (inv : HostInv s) (host : t.host = s.host) : HostInv t :=
  hostInv_of_agent inv (by rw [host]) (by rw [host]; exact id)

/-- A line of a well-formed program is well formed (rules R98, R241). -/
theorem lineWf_of_programWf {p : List HostLine} (wf : programWf p = true) {n : Nat} {l : HostLine} (line : p[n]? = some l) :
    lineWf p l = true :=
  List.all_eq_true.1 wf l (List.mem_of_getElem? line)

/-- A bus access of a well-formed program is one that the bus port admits (rule R241). -/
theorem accessOk_of_hostInv {s : State} (inv : HostInv s) {size off : Nat}
    (line : (∃ e, s.host.program[s.host.pos]? = some (.write size off e)) ∨
      ∃ x, s.host.program[s.host.pos]? = some (.read size x off)) : accessOk size off = true := by
  obtain ⟨wf, -⟩ := inv
  rcases line with ⟨e, line⟩ | ⟨x, line⟩
  · have h := lineWf_of_programWf wf line
    simp only [lineWf, Bool.and_eq_true] at h
    exact h.1
  · exact lineWf_of_programWf wf line

theorem hostTurn_of_hostInv {s : State} (inv : HostInv s) : ∃ t, hostTurn s = .next t ∧ HostInv t := by
  cases hostTurn_effect s with
  | writes size off v _ _ h =>
    obtain ⟨host, -, -⟩ := writeLoc_frame v s (locate off)
    exact ⟨_, h, hostInv_of_agent inv (by rw [hostAdvance_host, host]) (by rw [hostAdvance_host, host]; exact id)⟩
  | localOnly h' program vars h => exact ⟨_, h, hostInv_of_agent inv program vars⟩
  | busError size off line bad _ => exact absurd (bad.symm.trans (accessOk_of_hostInv inv line)) Bool.false_ne_true

/-- The sequencer's turn answers a next state in every state, and does not touch the host. -/
theorem sequencerTurn_total (s : State) : ∃ t, sequencerTurn s = .next t ∧ t.host = s.host := by
  rcases sequencerTurn_cases s with ⟨-, h⟩ | ⟨-, h⟩ | ⟨i, -, h⟩
  · exact ⟨_, h, rfl⟩
  · exact ⟨_, h, rfl⟩
  · obtain ⟨t, run, outcome⟩ := exec_outcome i s
    exact ⟨t, h.trans run, host_of_execOutcome outcome⟩

end Sys2Proof.Proofs
end

section
/-! The obligations of the whole machine: the host that never faults, the frames, and what the steps keep. -/

namespace Sys2Proof.Proofs

open Sys2Proof.Machine Sys2Proof.Laws

/-- Settles O56: the host's turn is the only one that can fault, and a well-formed program issues no access that does. -/
theorem wellFormedHostNeverFaults : Obligations.WellFormedHostNeverFaults := by
  intro s inv
  have popped : HostInv (popTurn s) := hostInv_congr inv rfl
  rcases step_cases s with ⟨-, h⟩ | ⟨-, h⟩ | ⟨code, -, h⟩ | ⟨-, h⟩ <;> rw [h]
  · exact hostTurn_of_hostInv popped
  · obtain ⟨t, turn, host⟩ := sequencerTurn_total (popTurn s)
    exact ⟨t, turn, hostInv_congr popped host⟩
  · obtain ⟨-, -, -, -, host⟩ := takeResponse_frame code (popTurn s)
    exact ⟨_, rfl, hostInv_congr popped host⟩
  · exact ⟨_, rfl, hostInv_congr popped rfl⟩

/-- Settles O48: a command's step is a completion, a request or a wait, and each has its own frame. -/
theorem everyCommandsFrame : Obligations.EveryCommandsFrame := by
  intro i s t run
  have outcome := execOutcome_of_run run
  have untouched (notBuild : i ≠ .buildTable) (notVerify : i ≠ .verify) (notRecover : i ≠ .recover) :
      TableUntouched s t := by
    refine tableUntouched_of_execOutcome outcome ?_
    rw [← Bool.not_eq_true, writesTable_iff]
    simp only [notBuild, notVerify, notRecover, or_self, not_false_iff]
  have pending := accelPending_of_execOutcome outcome
  have valid := tableValid_of_execOutcome outcome
  cases outcome <;> exact ⟨rfl, rfl, rfl, rfl, rfl, rfl, rfl, untouched, pending, valid⟩

/-- Settles O49: only the host's write of 1 to IRQ_STATUS or a reset clears DONE_IRQ, and a step of a running command that
ends in IDLE is its completion. -/
theorem doneIrqClearedOnlyByTheHost : Obligations.DoneIrqClearedOnlyByTheHost := by
  refine ⟨fun s t h set cleared => ?cleared, fun i s t run idle running => ?sets, fun s => Bool.and_eq_true _ _ ▸ Iff.rfl⟩
  case cleared =>
    have kept : t.doneIrq ≠ s.doneIrq := by simp [set, cleared]
    cases stepEffect h with
    | writes size off e turn line ok =>
      rcases writeLoc_doneIrq (BitVec.ofNat 32 (evalExpr s.host.vars e)) (popTurn s) (locate off) with
        isReset | ⟨loc, bit⟩ | same
      · exact .inl isReset
      · obtain ⟨rfl, -⟩ := (accessOk_iff size off).1 ok
        cases locate_eq_irqStatus loc
        exact .inr ⟨turn, e, line, (getLsbD_zero_ofNat _).1 bit⟩
      · exact absurd same kept
    | hostOnly h => exact absurd rfl kept
    | illegal _ _ => cases cleared
    | command i t _ _ run =>
      rcases doneIrq_of_execOutcome (execOutcome_of_run run) with done | same
      · cases done.symm.trans cleared
      · exact absurd same kept
    | response code =>
      obtain ⟨-, -, -, same, -⟩ := takeResponse_frame code (popTurn s)
      exact absurd same kept
    | hardReset => exact .inl (blockIsReset_resetBlock _)
  case sets =>
    cases execOutcome_of_run run with
    | completes r _ => rfl
    | requests _ => cases idle
    | waits _ => exact absurd idle running

/-- Settles O55: the table a command writes is a build's, whose entry 0 is the identity, and a reset clears every entry. -/
theorem tableEntryZeroIsAlwaysTheIdentity : Obligations.TableEntryZeroIsAlwaysTheIdentity := by
  refine ⟨rfl, fun s t zero h => ?_⟩
  cases stepEffect h with
  | writes size off e _ _ _ =>
    rcases writeLoc_table (BitVec.ofNat 32 (evalExpr s.host.vars e)) (popTurn s) (locate off) with
      isReset | ⟨table, -⟩
    · exact zero_of_table_eq (table_of_blockIsReset isReset) rfl
    · exact zero_of_table_eq table zero
  | hostOnly h => exact zero
  | illegal _ _ => exact zero
  | command i t _ _ run => exact table_zero_of_execOutcome (execOutcome_of_run run) zero
  | response code =>
    obtain ⟨-, table, -⟩ := takeResponse_frame code (popTurn s)
    exact zero_of_table_eq table zero
  | hardReset => rfl

/-- Settles O57: the host's writes to an ARG register are ignored while BUSY = 1, and nobody else writes one. -/
theorem operandsAreStableWhileBusy : Obligations.OperandsAreStableWhileBusy := by
  intro s t busy h
  cases stepEffect h with
  | writes size off e _ _ _ => exact (writeLoc_args_of_busy (s := popTurn s) busy _ _).symm
  | hostOnly h => exact .inl rfl
  | illegal _ _ => exact .inl rfl
  | command i t _ _ run => exact .inl (args_of_execOutcome (s := popTurn s) (execOutcome_of_run run))
  | response code =>
    obtain ⟨args, -⟩ := takeResponse_frame code (popTurn s)
    exact .inl args
  | hardReset => exact .inr (blockIsReset_resetBlock _)

/-- Settles O58: short of a reset only the sequencer's turn on a command changes the table, and only a reset clears
TABLE_VALID. -/
theorem onlyThreeCommandsWriteTheTable : Obligations.OnlyThreeCommandsWriteTheTable := by
  refine ⟨fun s t h changed => ?writer, fun s t h valid => ?stays⟩
  case writer =>
    cases stepEffect h with
    | writes size off e _ _ _ =>
      rcases writeLoc_table (BitVec.ofNat 32 (evalExpr s.host.vars e)) (popTurn s) (locate off) with
        isReset | ⟨table, -⟩
      · exact .inl isReset
      · exact absurd table changed
    | hostOnly h => exact absurd rfl changed
    | illegal _ _ => exact absurd rfl changed
    | command i t turn running run =>
      obtain ⟨writer, valid⟩ := writes_of_execOutcome (execOutcome_of_run run) changed
      refine .inr ⟨valid, turn, ?_⟩
      rw [running]
      rcases (writesTable_iff i).1 writer with rfl | rfl | rfl <;> simp
    | response code =>
      obtain ⟨-, table, -⟩ := takeResponse_frame code (popTurn s)
      exact absurd table changed
    | hardReset => exact .inl (blockIsReset_resetBlock _)
  case stays =>
    cases stepEffect h with
    | writes size off e _ _ _ =>
      rcases writeLoc_table (BitVec.ofNat 32 (evalExpr s.host.vars e)) (popTurn s) (locate off) with
        isReset | ⟨-, same⟩
      · exact .inr isReset
      · exact .inl (same.trans valid)
    | hostOnly h => exact .inl valid
    | illegal _ _ => exact .inl ((Bool.or_false _).trans valid)
    | command i t _ _ run => exact .inl (tableValid_of_execOutcome (execOutcome_of_run run) valid)
    | response code =>
      obtain ⟨-, -, status, -⟩ := takeResponse_frame code (popTurn s)
      exact .inl (by rw [status]; exact valid)
    | hardReset => exact .inr (blockIsReset_resetBlock _)

end Sys2Proof.Proofs
end

section
/-! The words of the flag registers bit by bit, the bus error, the response codes and the payload's bytes (rules R27 to R30,
R62, R67, R220, R240, R241). -/

namespace Sys2Proof.Proofs

open Sys2Proof.Machine Sys2Proof.Laws

/-! The bits of a word that is written as a number. -/

theorem getLsbD_ofNat_of_digit {n i : Nat} {b : Bool} (inside : i < 32) (digit : n / 2 ^ i % 2 = b.toNat) :
    (BitVec.ofNat 32 n).getLsbD i = b := by
  rw [BitVec.getLsbD_ofNat, Nat.testBit_eq_decide_div_mod_eq, digit]
  cases b <;> simp [inside]

theorem errCode_lt (e : ErrCode) : errCode e < 16 := by cases e <;> decide

/-- Rule R29's layout: the fields stand at their bits, ERR in [7:4], and no carry reaches the reserved bits. -/
theorem statusWord_layout (st : Status) :
    ((statusWord st).getLsbD 0 = st.busy ∧ (statusWord st).getLsbD 1 = st.done ∧
      (statusWord st).getLsbD 2 = st.tableValid ∧ (statusWord st).getLsbD 3 = st.busyWrite ∧
      (statusWord st).getLsbD 8 = st.accelUsed ∧ (statusWord st).getLsbD 9 = st.degen) ∧
      (statusWord st).toNat / 16 % 16 = errCode st.err ∧ (statusWord st).toNat < 2 ^ 10 := by
  have := st.busy.toNat_lt; have := st.done.toNat_lt; have := st.tableValid.toNat_lt; have := st.busyWrite.toNat_lt
  have := errCode_lt st.err; have := st.accelUsed.toNat_lt; have := st.degen.toNat_lt
  constructor
  · refine ⟨?_, ?_, ?_, ?_, ?_, ?_⟩ <;> exact getLsbD_ofNat_of_digit (by decide) (by omega)
  · rw [statusWord, BitVec.toNat_ofNat, Nat.mod_eq_of_lt (b := 2 ^ 32) (by omega)]
    omega

/-- Rule R27's bits; SOFT_RESET reads 0. -/
theorem ctrlWord_bits (c : Ctrl) :
    (ctrlWord c).getLsbD 0 = false ∧ (ctrlWord c).getLsbD 1 = c.accelEn ∧ (ctrlWord c).getLsbD 2 = c.irqEn ∧
      (ctrlWord c).toNat < 2 ^ 3 := by
  obtain ⟨accelEn, irqEn⟩ := c
  cases accelEn <;> cases irqEn <;> decide

/-- Rule R30's bits. -/
theorem irqStatusWord_bits (doneIrq : Bool) :
    (irqStatusWord doneIrq).getLsbD 0 = doneIrq ∧ (irqStatusWord doneIrq).toNat < 2 := by
  cases doneIrq <;> decide

/-- A read of CTRL after a write returns the written word's two stored bits (rule R27). -/
theorem ctrlWord_ctrlOfWord (v : Word) : ctrlWord (ctrlOfWord v) = v &&& 0x6 := by
  have stored (a b : Bool) (i : Nat) (inside : i < 32) :
      (ctrlWord { accelEn := a, irqEn := b }).getLsbD i = if i = 1 then a else if i = 2 then b else false := by
    revert a b i; decide
  have mask (i : Nat) (inside : i < 32) : (0x6 : Word).getLsbD i = (decide (i = 1) || decide (i = 2)) := by
    revert i; decide
  apply BitVec.eq_of_getLsbD_eq
  intro i inside
  rw [ctrlOfWord, stored _ _ i inside, BitVec.getLsbD_and, mask i inside]
  by_cases one : i = 1
  · simp [one]
  by_cases two : i = 2 <;> simp [one, two]

/-! The bus error (rules R62, R241). -/

theorem accessOk_eq_false_iff (size off : Nat) :
    accessOk size off = false ↔ ¬(size = 4 ∧ off % 4 = 0 ∧ off < 0x1000) := by
  rw [← accessOk_iff, Bool.not_eq_true]

theorem memRead_eq_busError_iff (size off : Nat) (s : State) :
    memRead size off s = .error .busError ↔ accessOk size off = false := by
  unfold memRead
  cases accessOk size off <;> simp

theorem memWrite_eq_busError_iff (size off : Nat) (v : Word) (s : State) :
    memWrite size off v s = .error .busError ↔ accessOk size off = false := by
  unfold memWrite
  cases accessOk size off <;> simp

theorem hostTurn_write_eq_fault_iff {s : State} {size off : Nat} {e : HostExpr}
    (line : s.host.program[s.host.pos]? = some (.write size off e)) :
    hostTurn s = .fault .busError ↔ accessOk size off = false := by
  simp only [hostTurn, line, hostLine]
  unfold memWrite
  cases accessOk size off <;> simp

theorem hostTurn_read_eq_fault_iff {s : State} {size x off : Nat}
    (line : s.host.program[s.host.pos]? = some (.read size x off)) :
    hostTurn s = .fault .busError ↔ accessOk size off = false := by
  simp only [hostTurn, line, hostLine]
  unfold memRead
  cases accessOk size off <;> simp

/-! The accelerator port (rules R67, R220). -/

theorem code_cases (code : BitVec 2) : code = 0b00 ∨ code = 0b01 ∨ code = 0b10 ∨ code = 0b11 := by
  revert code; decide

theorem length_bytesBE (v : U256) : (bytesBE v).length = 32 := by simp [bytesBE]

/-- The first k bytes, read most significant first, are the value's top 8k bits. -/
theorem foldl_firstBytes (v : U256) {k : Nat} (inside : k ≤ 32) :
    ((List.range k).map fun i => v.extractLsb' (248 - 8 * i) 8).foldl (fun n b => 256 * n + b.toNat) 0 =
      v.toNat / 2 ^ (256 - 8 * k) := by
  induction k with
  | zero => simpa using (Nat.div_eq_of_lt v.isLt).symm
  | succ k ih =>
    have shift : 2 ^ (256 - 8 * k) = 2 ^ (256 - 8 * (k + 1)) * 256 := by
      rw [show 256 - 8 * k = 256 - 8 * (k + 1) + 8 by omega, pow_add, show 2 ^ 8 = 256 from rfl]
    have byte : 248 - 8 * k = 256 - 8 * (k + 1) := by omega
    rw [List.range_succ, List.map_append, List.foldl_append, ih (by omega), shift, ← Nat.div_div_eq_div_mul]
    simp only [List.map_cons, List.map_nil, List.foldl_cons, List.foldl_nil, BitVec.extractLsb'_toNat,
      Nat.shiftRight_eq_div_pow, byte]
    omega

theorem foldl_bytesBE (v : U256) : (bytesBE v).foldl (fun n b => 256 * n + b.toNat) 0 = v.toNat :=
  (foldl_firstBytes v le_rfl).trans (Nat.div_one _)

/-! The placing of a command word (rule R95). -/

theorem tableWord_toNat (w : Word) : tableWord 32 w.toNat = w := by
  rw [tableWord, Nat.mod_eq_of_lt w.isLt, BitVec.ofNat_toNat, BitVec.setWidth_eq]

theorem step_of_running {s : State} {i : Instr} (turn : nextTurn s = .sequencer)
    (running : runningOp s = some (.command i)) : step s = exec i (popTurn s) := by
  have popped : runningOp (popTurn s) = some (.command i) := running
  simp only [step, turn, sequencerTurn, popped]

/-- The placed state is an acceptance whose next event is the sequencer's turn, whatever stood in the schedule. -/
theorem placeCommand_spec (w : Word) (s : State) :
    nextTurn (placeCommand w s) = .sequencer ∧ runningOp (placeCommand w s) = some (opOfWord w) ∧
      popTurn (placeCommand w s) = accept w s := by
  simp only [placeCommand, accept_turns]
  cases turns : s.turns with
  | nil => exact ⟨by simp [nextTurn, turns, defaultTurn], rfl, by simp [popTurn, accept, turns]⟩
  | cons t rest => exact ⟨rfl, rfl, by simp [popTurn, accept, turns]⟩

end Sys2Proof.Proofs
end

section
/-! The obligations of the flag registers, the bus error, acceptance and the accelerator port. -/

namespace Sys2Proof.Proofs

open Sys2Proof.Machine Sys2Proof.Laws

/-- Settles O7: each word is a sum of its fields' places, which do not overlap. -/
theorem statusAndControlWordsAreLaidOut : Obligations.StatusAndControlWordsAreLaidOut := by
  refine ⟨fun s => ⟨_, _, _, memRead_status s, memRead_ctrl s, memRead_irqStatus s, memRead_cmd s, ?_⟩,
    rfl, rfl, rfl, rfl, rfl, rfl, rfl, rfl⟩
  obtain ⟨⟨busy, done, tableValid, busyWrite, accelUsed, degen⟩, err, inside⟩ := statusWord_layout s.status
  obtain ⟨softReset, accelEn, irqEn, ctrlInside⟩ := ctrlWord_bits s.ctrl
  obtain ⟨doneIrq, irqInside⟩ := irqStatusWord_bits s.doneIrq
  exact ⟨busy, done, tableValid, busyWrite, err, accelUsed, degen, inside, softReset, accelEn, irqEn, ctrlInside, doneIrq,
    irqInside⟩

/-- Settles O11: the bus error is the answer exactly when `accessOk` refuses the access, and the host's turn passes
it on. -/
theorem busErrorExactlyOnMalformedAccesses : Obligations.BusErrorExactlyOnMalformedAccesses := by
  intro size off v s
  simp only [← accessOk_eq_false_iff]
  refine ⟨memRead_eq_busError_iff size off s, memWrite_eq_busError_iff size off v s, fun e x line => ?_⟩
  rcases line with line | line
  · exact hostTurn_write_eq_fault_iff line
  · exact hostTurn_read_eq_fault_iff line

/-- Settles O14: a CMD write in IDLE is `accept`. -/
theorem acceptanceClearsTheFlags : Obligations.AcceptanceClearsTheFlags := by
  intro w s idle
  exact ⟨accept w s, by rw [memWrite_cmd, writeCmd_of_idle idle], rfl, rfl, rfl, rfl, rfl, rfl, rfl, rfl, rfl, rfl, rfl, rfl,
    rfl, rfl, rfl, rfl⟩

/-- Settles O50: a CTRL write without SOFT_RESET replaces CTRL's two stored bits. -/
theorem ctrlWriteTakesEffectAtOnce : Obligations.CtrlWriteTakesEffectAtOnce := by
  intro s v noReset
  refine ⟨{ s with ctrl := ctrlOfWord v }, by rw [memWrite_ctrl, writeCtrl_of_not_softReset noReset], rfl, rfl, rfl, rfl, ?_,
    rfl⟩
  rw [memRead_ctrl, ctrlWord_ctrlOfWord]

/-- Settles O2: the words are closed. -/
theorem sampleWordsDecode : Obligations.SampleWordsDecode := by
  unfold Obligations.SampleWordsDecode
  decide

/-- Settles O44: the bytes of a register are its digits in base 256. -/
theorem payloadIsBigEndian : Obligations.PayloadIsBigEndian :=
  ⟨fun v => ⟨length_bytesBE v, foldl_bytesBE v⟩, fun p => ⟨by simp [payloadBytes, length_bytesBE], rfl⟩⟩

/-- Settles O45: the response is `takeResponse` on the state with the event taken. -/
theorem responseEvent : Obligations.ResponseEvent := by
  intro s code turn
  have event : step s = .next (takeResponse code (popTurn s)) := by simp only [step, turn]
  refine ⟨fun notPending => ?ignored, fun op p pending seq => ?latched⟩
  case ignored => rw [event, takeResponse_of_not_pending (s := popTurn s) notPending]
  case latched =>
    rcases takeResponse_cases code (popTurn s) with ⟨notPending, -⟩ | ⟨-, h⟩
    · cases notPending.symm.trans pending
    · rw [event, h, popTurn_seq, seq]
      rcases code_cases code with rfl | rfl | rfl | rfl <;> rfl

/-- Settles O4: acceptance puts the decoded command in the sequencer, whose turn is that command's `exec`; the placing puts
that turn next. -/
theorem stepRunsTheDecodedCommand : Obligations.StepRunsTheDecodedCommand := by
  refine ⟨fun w i s ok => ?accepted, fun i s turn running => ?runs, fun w i s ok => ?placed⟩
  case accepted => rw [accept_seq, opOfWord_of_decode ok]
  case runs => exact step_of_running turn (runningOp_eq_command_iff.2 running)
  case placed =>
    obtain ⟨turn, running, popped⟩ := placeCommand_spec w s
    rw [opOfWord_of_decode ok] at running
    rw [State.withFetchWord, tableWord_toNat, step_of_running turn running, popped]

/-- Settles O9: the ROM holds the constants as they are, whose properties `constant_properties` proves. -/
theorem romHoldsTheCurveConstants : Obligations.RomHoldsTheCurveConstants := by
  have p : (romValue 0).toNat = Curve.P := resOf_toNat (by decide)
  have n : (romValue 1).toNat = Curve.N := resOf_toNat (by decide)
  have a : (romValue 2).toNat = Curve.A := resOf_toNat (by decide)
  have b : (romValue 3).toNat = Curve.B := resOf_toNat (by decide)
  have gx : (romValue 4).toNat = Curve.GX := resOf_toNat (by decide)
  have gy : (romValue 5).toNat = Curve.GY := resOf_toNat (by decide)
  have halfN : (romValue 6).toNat = Curve.halfN := resOf_toNat (by decide)
  have properties := constant_properties
  unfold Obligations.RomHoldsTheCurveConstants
  simp only [p, n, a, b, gx, gy, halfN]
  exact ⟨by decide, rfl, by decide, rfl, rfl, rfl, properties.two_half_n, properties.half_n, properties.p_prime,
    properties.n_prime, properties.p_mod_four, properties.root_exponent, properties.n_lt_p, properties.p_sub_n,
    properties.n_mod_four, properties.g_on_curve, properties.no_root, properties.n_times_g⟩

end Sys2Proof.Proofs
end

section
/-! The command that completes (rules R281, R290), and the eight host turns of `wr256` (rules R61, R63, R99). -/

namespace Sys2Proof.Proofs

open Sys2Proof.Machine Sys2Proof.Laws

/-! Runs. -/

theorem core_run_succ (M : Host.Core) {s t : M.State} (h : M.step s = .next t) (k : Nat) :
    M.run (k + 1) s = M.run k t := by
  rw [Host.Core.run, h]

theorem run_succ_of_step {s t : State} (h : step s = .next t) (k : Nat) : core.run (k + 1) s = core.run k t :=
  core_run_succ core h k

/-- At most k steps from `s` end in IDLE with DONE = 1 and BUSY = 0. -/
def CompletesWithin (k : Nat) (s : State) : Prop :=
  ∃ n t, n ≤ k ∧ core.run n s = .next t ∧ t.seq = .idle ∧ t.status.done = true ∧ t.status.busy = false

theorem completesWithin_succ {k : Nat} {s t : State} (h : step s = .next t) (rest : CompletesWithin k t) :
    CompletesWithin (k + 1) s := by
  obtain ⟨n, u, bound, run, done⟩ := rest
  exact ⟨n + 1, u, Nat.succ_le_succ bound, (run_succ_of_step h n).trans run, done⟩

theorem completesWithin_mono {j k : Nat} (bound : j ≤ k) {s : State} (h : CompletesWithin j s) : CompletesWithin k s := by
  obtain ⟨n, t, le, done⟩ := h
  exact ⟨n, t, le.trans bound, done⟩

theorem completesWithin_of_complete {s u : State} {r : Results} (h : step s = .next (complete r u)) :
    CompletesWithin 1 s :=
  completesWithin_succ h ⟨0, complete r u, le_rfl, rfl, rfl, rfl, rfl⟩

/-! What the default turns do (rule R290). -/

/-- A command's step from a state without a schedule, when the sequencer's turn is the default one. -/
theorem step_of_default {s : State} {i : Instr} (free : s.turns = []) (turn : defaultTurn s = .sequencer)
    (running : runningOp s = some (.command i)) : step s = exec i (popTurn s) :=
  step_of_running (by simp only [nextTurn, free, turn]) running

/-- An answered command completes: it sends no second request and waits for no second answer. -/
theorem completesWithin_of_answered {s : State} {i : Instr} {p : Payload} {a : AccelResponse} (inv : BlockInv s)
    (free : s.turns = []) (seq : s.seq = .waitAccel i p (some a)) : CompletesWithin 1 s := by
  have run : step s = exec i (popTurn s) :=
    step_of_default free (by simp [defaultTurn, seq]) (by simp [runningOp, seq])
  cases execEffect_of_blockInv (blockInv_popTurn inv) i with
  | completes r _ h => exact completesWithin_of_complete (run.trans h)
  | requests _ launched _ _ _ => exact absurd seq (launched _ _ _)
  | waits _ o q awaiting _ => cases seq.symm.trans awaiting

/-- An awaiting command gets its answer, whatever the draw, and then completes. -/
theorem completesWithin_of_awaiting {s : State} {i : Instr} {p : Payload} (inv : BlockInv s) (free : s.turns = [])
    (seq : s.seq = .waitAccel i p none) : CompletesWithin 2 s := by
  have popped := blockInv_popTurn inv
  have turn : nextTurn s = .accelerator (Config.accelDraw s.draws) := by simp only [nextTurn, free, defaultTurn, seq]
  have event : step s = .next (takeResponse (Config.accelDraw s.draws) (popTurn s)) := by simp only [step, turn]
  have pending : (popTurn s).accelPending = true := popped.accel.pending_iff.2 ⟨i, p, seq⟩
  have kept := blockInv_takeResponse popped (Config.accelDraw s.draws)
  refine completesWithin_succ event ?_
  rcases takeResponse_cases (Config.accelDraw s.draws) (popTurn s) with ⟨notPending, -⟩ | ⟨-, h⟩
  · cases notPending.symm.trans pending
  · rw [h] at kept ⊢
    have answered : latchAnswer (responseOfCode (Config.accelDraw s.draws)) (popTurn s).seq =
        .waitAccel i p (some (responseOfCode (Config.accelDraw s.draws))) := by
      simp only [popTurn_seq, seq, latchAnswer]
    exact completesWithin_of_answered kept (by simp [free]) answered

/-- A launched command completes, or sends a request and awaits its answer. -/
theorem completesWithin_of_launched {s : State} {i : Instr} {accelEn : Bool} (inv : BlockInv s) (free : s.turns = [])
    (seq : s.seq = .run (.command i) accelEn) : CompletesWithin 3 s := by
  have popped := blockInv_popTurn inv
  have running : runningOp s = some (.command i) := by simp only [runningOp, seq]
  have run : step s = exec i (popTurn s) := step_of_default free (by simp only [defaultTurn, seq]) running
  cases execEffect_of_blockInv popped i with
  | completes r _ h => exact completesWithin_mono (by decide) (completesWithin_of_complete (run.trans h))
  | requests _ _ _ _ h =>
    exact completesWithin_succ (run.trans h)
      (completesWithin_of_awaiting (blockInv_exec popped running h) (by simp [free]) rfl)
  | waits _ o q awaiting _ => cases seq.symm.trans awaiting

theorem completesWithin_of_illegal {s : State} {accelEn : Bool} (free : s.turns = [])
    (seq : s.seq = .run .illegal accelEn) : CompletesWithin 1 s := by
  have turn : nextTurn s = .sequencer := by simp only [nextTurn, free, defaultTurn, seq]
  have run : sequencerTurn (popTurn s) = .next (raiseError .illegalCmd (popTurn s)) := sequencerTurn_of_illegal seq
  have completes : step s = .next (complete { err := .illegalCmd } (popTurn s)) := by
    simp only [step, turn, run, raiseError]
  exact completesWithin_of_complete completes

/-! The eight turns of `wr256`. -/

/-- `u` with its first k words replaced by those of `v`. -/
def withFirstWords (u v : U256) : Nat → U256
  | 0 => u
  | k + 1 => if inside : k < 8 then setWordOf (withFirstWords u v k) ⟨k, inside⟩ (wordOf v ⟨k, inside⟩) else u

theorem withFirstWords_succ (u v : U256) (k : Fin 8) :
    withFirstWords u v (k.val + 1) = setWordOf (withFirstWords u v k.val) k (wordOf v k) := by
  rw [withFirstWords, dif_pos k.isLt]

theorem wordOf_withFirstWords (u v : U256) {k : Nat} (bound : k ≤ 8) {j : Fin 8} (written : j.val < k) :
    wordOf (withFirstWords u v k) j = wordOf v j := by
  induction k with
  | zero => exact absurd written (Nat.not_lt_zero _)
  | succ k ih =>
    rw [withFirstWords_succ u v ⟨k, bound⟩]
    by_cases last : j = ⟨k, bound⟩
    · rw [last, wordOf_setWordOf_same]
    · have before : j.val ≠ k := fun same => last (Fin.ext same)
      rw [wordOf_setWordOf_ne _ last, ih (by omega) (by omega)]

theorem withFirstWords_eight (u v : U256) : withFirstWords u v 8 = v :=
  eq_of_wordOf_eq fun k => wordOf_withFirstWords u v le_rfl k.isLt

/-- The state after k of the eight writes: k words of ARGi, k lines, k turns. -/
def afterWords (s : State) (i : Fin 6) (v : U256) (later : List Turn) (k : Nat) : State :=
  { s with
    args := s.args.set i (withFirstWords s.args[i] v k)
    host := { s.host with pos := s.host.pos + k }
    turns := List.replicate (8 - k) .host ++ later }

theorem afterWords_zero {s : State} {later : List Turn} (turns : s.turns = List.replicate 8 .host ++ later) (i : Fin 6)
    (v : U256) : afterWords s i v later 0 = s := by
  rw [afterWords, withFirstWords, Nat.sub_zero, ← turns, Nat.add_zero]
  simp

theorem afterWords_eight (s : State) (i : Fin 6) (v : U256) (later : List Turn) :
    afterWords s i v later 8 =
      { s with args := s.args.set i v, host := { s.host with pos := s.host.pos + 8 }, turns := later } := by
  simp [afterWords, withFirstWords_eight]

/-- Line k of `wr256 ARGi, V`, wherever the pseudo-operation stands in the program. -/
theorem wr256_line {p pre post : List HostLine} {i : Nat} {e : HostExpr} (program : p = pre ++ wr256 i e ++ post)
    (k : Fin 8) : p[pre.length + k.val]? = some (.write 4 (0x100 + 0x20 * i + 4 * k.val) (.word e k.val)) := by
  subst program
  rw [List.append_assoc, List.getElem?_append_right (Nat.le_add_right _ _), Nat.add_sub_cancel_left]
  rw [List.getElem?_append_left (by simp [wr256])]
  simp [wr256]

/-- The host's word selector is the register's word (rule R61). -/
theorem evalExpr_word (vars : List (Nat × Nat)) (v : U256) (k : Fin 8) :
    BitVec.ofNat 32 (evalExpr vars (.word (.lit v.toNat) k.val)) = wordOf v k := by
  rw [evalExpr, evalExpr, ← wordOf_toNat, BitVec.ofNat_toNat, BitVec.setWidth_eq]

/-- One of the eight turns. -/
theorem step_afterWords {s : State} {i : Fin 6} {v : U256} {pre post : List HostLine} (later : List Turn)
    (program : s.host.program = pre ++ wr256 i.val (.lit v.toNat) ++ post) (pos : s.host.pos = pre.length)
    (idle : s.status.busy = false) (k : Fin 8) :
    step (afterWords s i v later k.val) = .next (afterWords s i v later (k.val + 1)) := by
  have turns : (afterWords s i v later k.val).turns = .host :: (List.replicate (8 - (k.val + 1)) .host ++ later) := by
    have left : 8 - k.val = 8 - (k.val + 1) + 1 := by omega
    rw [afterWords, left, List.replicate_succ, List.cons_append]
  have turn : nextTurn (afterWords s i v later k.val) = .host := by simp only [nextTurn, turns]
  have line : (popTurn (afterWords s i v later k.val)).host.program[(popTurn (afterWords s i v later k.val)).host.pos]? =
      some (.write 4 (0x100 + 0x20 * i.val + 4 * k.val) (.word (.lit v.toNat) k.val)) := by
    simp only [popTurn_host, afterWords, pos]
    exact wr256_line program k
  have ok : accessOk 4 (0x100 + 0x20 * i.val + 4 * k.val) = true := (accessOk_iff _ _).2 ⟨rfl, by omega, by omega⟩
  have write : hostTurn (popTurn (afterWords s i v later k.val)) = _ := hostTurn_write line ok
  rw [evalExpr_word, locate_arg, writeLoc, writeArg_of_idle (s := popTurn (afterWords s i v later k.val)) idle] at write
  simp only [step, turn, write, hostAdvance]
  simp only [popTurn, turns, List.tail_cons]
  simp only [afterWords, withFirstWords_succ, Nat.add_assoc]
  simp

end Sys2Proof.Proofs
end

section
/-! The obligations of the machine's runs. -/

namespace Sys2Proof.Proofs

open Sys2Proof.Machine Sys2Proof.Laws

/-- Settles O59: the default turns give a running command its turns and its answer; the longest way is a request, its
response and the completion. -/
theorem everyCommandCompletes : Obligations.EveryCommandCompletes := by
  intro s inv busy free
  cases seq : s.seq with
  | idle => exact absurd seq (inv.handshake.busy_iff.1 busy)
  | run op accelEn =>
    cases op with
    | illegal => exact completesWithin_mono (by decide) (completesWithin_of_illegal free seq)
    | command i => exact completesWithin_of_launched inv free seq
  | waitAccel i p answer =>
    cases answer with
    | none => exact completesWithin_mono (by decide) (completesWithin_of_awaiting inv free seq)
    | some a => exact completesWithin_mono (by decide) (completesWithin_of_answered inv free seq)

/-- Settles O60: turn k replaces word k of the operand by the value's, and a register is its eight words. -/
theorem writeOf256BitsSetsTheOperand : Obligations.WriteOf256BitsSetsTheOperand := by
  intro s i v pre post later program pos idle turns
  have run (n k : Nat) (bound : k + n = 8) :
      core.run n (afterWords s i v later k) = .next (afterWords s i v later 8) := by
    induction n generalizing k with
    | zero => rw [show k = 8 by omega]; rfl
    | succ n ih =>
      rw [run_succ_of_step (step_afterWords later program pos idle ⟨k, by omega⟩)]
      exact ih (k + 1) (by omega)
  rw [← afterWords_eight, ← run 8 0 rfl, afterWords_zero turns]

end Sys2Proof.Proofs
end

section
/-! Inverses and square roots (rules R112, R125, R230), and the two validations as conditions on their operands (rules R140,
R145). -/

namespace Sys2Proof.Proofs

open Sys2Proof.Machine Sys2Proof.Laws

/-! Inverses modulo a prime, by Fermat's little theorem. -/

theorem coprime_of_mod_ne_zero {m a : Nat} (prime : m.Prime) (residue : a % m ≠ 0) : a.Coprime m :=
  (prime.coprime_iff_not_dvd.2 fun h => residue (Nat.mod_eq_zero_of_dvd h)).symm

theorem mul_invValue_mod {m a : Nat} (prime : m.Prime) (fits : m < 2 ^ 256) (residue : a % m ≠ 0) :
    a * invValue a m % m = 1 := by
  have two : 2 ≤ m := prime.two_le
  have fermat : a ^ (m - 1) ≡ 1 [MOD m] := by
    rw [← Nat.totient_prime prime]
    exact Nat.ModEq.pow_totient (coprime_of_mod_ne_zero prime residue)
  calc a * invValue a m % m
      = a ^ (m - 2 + 1) % m := by rw [invValue_eq prime.pos fits, Nat.mul_mod_mod, pow_succ']
    _ = 1 % m := by rw [show m - 2 + 1 = m - 1 by omega]; exact fermat
    _ = 1 := Nat.mod_eq_of_lt two

/-- The inverse below a prime modulus is unique. -/
theorem eq_of_mul_mod_eq_one {m a x y : Nat} (prime : m.Prime) (residue : a % m ≠ 0) (xBelow : x < m) (yBelow : y < m)
    (xInverse : a * x % m = 1) (yInverse : a * y % m = 1) : x = y := by
  have same : a * x ≡ a * y [MOD m] := xInverse.trans yInverse.symm
  exact (same.cancel_left_of_coprime (coprime_of_mod_ne_zero prime residue).symm).eq_of_lt_of_lt xBelow yBelow

/-! Square roots modulo P. -/

/-- P mod 4 = 3, so four times the root exponent is P + 1, and Fermat's little theorem gives the square back. -/
theorem pow_root_sq {x : ZMod Curve.P} (square : IsSquare x) : (x ^ ((Curve.P + 1) / 4)) ^ 2 = x := by
  have : Fact Curve.P.Prime := ⟨P_prime⟩
  obtain ⟨y, rfl⟩ := square
  calc ((y * y) ^ ((Curve.P + 1) / 4)) ^ 2
      = y ^ (4 * ((Curve.P + 1) / 4)) := by rw [← pow_two, ← pow_mul, ← pow_mul]; congr 1
    _ = y ^ (Curve.P + 1) := by rw [show 4 * ((Curve.P + 1) / 4) = Curve.P + 1 by decide]
    _ = y * y := by rw [pow_succ, ZMod.pow_card]

/-! The two validations. -/

theorem boolRes_eq_one_iff (b : Bool) : boolRes b = 1 ↔ b = true := by cases b <;> decide

theorem boolRes_cases (b : Bool) : boolRes b = 0 ∨ boolRes b = 1 := by cases b <;> decide

/-- The completion of a command whose result is one bit (rules R140, R145). -/
theorem complete_bool (b : Bool) (s : State) :
    CompletedWith s (complete { res0 := boolRes b } s) .noError false false ∧
      TableUntouched s (complete { res0 := boolRes b } s) ∧
      (complete { res0 := boolRes b } s).res[1] = 0 ∧ (complete { res0 := boolRes b } s).res[2] = 0 ∧
      ((complete { res0 := boolRes b } s).res[0] = 0 ∨ (complete { res0 := boolRes b } s).res[0] = 1) :=
  ⟨completedWith_complete _ s, tableUntouched_complete rfl s, rfl, rfl, boolRes_cases b⟩

/-- Rule R140: the range check and the curve equation, in exact arithmetic. -/
theorem validKey_iff (x y : Nat) :
    validKey x y = true ↔
      x < Curve.P ∧ y < Curve.P ∧ y ^ 2 % Curve.P = (x ^ 3 + Curve.A * x + Curve.B) % Curve.P := by
  unfold validKey
  split
  case isTrue outside => simp only [Bool.false_eq_true, false_iff]; omega
  case isFalse inside =>
    rw [not_or, not_le, not_le] at inside
    simp only [beq_iff_eq, sqrP, mulP, curveRhs_eq, pow_two, inside, true_and]

/-- The curve equation of a valid key, in the field. -/
theorem curve_equation_of_validKey {x y : Nat} (valid : validKey x y = true) :
    (y : ZMod Curve.P) ^ 2 = (x : ZMod Curve.P) ^ 3 + Curve.A * x + Curve.B := by
  obtain ⟨-, -, equation⟩ := (validKey_iff x y).1 valid
  exact_mod_cast (ZMod.natCast_eq_natCast_iff' _ _ _).2 equation

/-- A pair below P that satisfies the curve equation in the field is a valid key. -/
theorem validKey_of_curve_equation {x y : Nat} (xBelow : x < Curve.P) (yBelow : y < Curve.P)
    (equation : (y : ZMod Curve.P) ^ 2 = (x : ZMod Curve.P) ^ 3 + Curve.A * x + Curve.B) : validKey x y = true :=
  (validKey_iff x y).2 ⟨xBelow, yBelow, (ZMod.natCast_eq_natCast_iff' _ _ _).1 (by exact_mod_cast equation)⟩

theorem y_pos_of_validKey {x y : Nat} (valid : validKey x y = true) : 0 < y := by
  refine Nat.pos_of_ne_zero ?_
  rintro rfl
  exact Bool.false_ne_true ((validKey_y_zero x).symm.trans valid)

/-- In the field, P - y is the negative of y. -/
theorem cast_P_sub {y : Nat} (le : y ≤ Curve.P) : ((Curve.P - y : Nat) : ZMod Curve.P) = -y := by
  rw [Nat.cast_sub le, CharP.cast_eq_zero, zero_sub]

/-- The negative of a curve point is a curve point. -/
theorem validKey_neg {x y : Nat} (valid : validKey x y = true) : validKey x (Curve.P - y) = true := by
  obtain ⟨xBelow, yBelow⟩ := validKey_lt valid
  have pos := y_pos_of_validKey valid
  refine validKey_of_curve_equation xBelow (by omega) ?_
  rw [cast_P_sub yBelow.le, neg_sq, curve_equation_of_validKey valid]

/-- Rule R145: both halves in range, s in the lower half. -/
theorem properSig_iff (r s : Nat) :
    properSig r s = true ↔ 0 < r ∧ r < Curve.N ∧ 0 < s ∧ s ≤ Curve.halfN := by
  simp [properSig, and_assoc]

/-- The twin of a low s is a high one. -/
theorem properSig_twin {s : Nat} (r : Nat) (low : s ≤ Curve.halfN) : properSig r (Curve.N - s) = false := by
  have twice := two_halfN
  rw [← Bool.not_eq_true, properSig_iff]
  omega

end Sys2Proof.Proofs
end

section
/-! The obligations of inverses, square roots and validation. -/

namespace Sys2Proof.Proofs

open Sys2Proof.Machine Sys2Proof.Laws

/-- Settles O16: Fermat's power is an inverse, and a prime modulus leaves room for one inverse only. -/
theorem invInvertsForPrimeModulus : Obligations.InvInvertsForPrimeModulus := by
  intro s prime residue
  set a := argNat s 0
  set m := argNat s 1
  have fits : m < 2 ^ 256 := argNat_lt s 1
  have below : invValue a m < m := invValue_lt prime.pos a
  have inverse : a * invValue a m % m = 1 := mul_invValue_mod prime fits residue
  have answer : inv a m = .ok (invValue a m) := by
    rw [inv_of_residue prime.ne_zero fits residue, invValue_eq prime.pos fits]
  obtain ⟨completed, -, value, -⟩ := completeValue_writes_value answer (below.trans fits) s
  refine ⟨_, rfl, completed.err, ?_⟩
  rw [show (completeValue (inv a m) s).res[0].toNat = invValue a m from value]
  refine ⟨Nat.pos_of_ne_zero fun zero => ?_, below, inverse, fun x xBelow xInverse => ?_⟩
  · simp [zero] at inverse
  · exact eq_of_mul_mod_eq_one prime residue xBelow below xInverse inverse

/-- Settles O18: the exact power (P + 1)/4 is a root of every square. -/
theorem modexpTakesSquareRoots : Obligations.ModexpTakesSquareRoots := by
  intro s exponent modulus square
  have nonzero : argNat s 2 ≠ 0 := modulus ▸ P_pos.ne'
  obtain ⟨completed, -, value, -⟩ := completeValue_writes_value
    (modpow_of_modulus (b := argNat s 0) nonzero (argNat_lt s 1)) (mod_argNat_lt _ nonzero) s
  refine ⟨_, rfl, completed.err, ?_⟩
  rw [show (completeValue (modpow (argNat s 0) (argNat s 1) (argNat s 2)) s).res[0].toNat = _ from value, exponent, modulus,
    ZMod.natCast_mod, Nat.cast_pow, pow_root_sq square]

/-- Settles O19: `validKey` is the range check and the curve equation; negation keeps both. -/
theorem validateKeyDecidesTheCurveEquation : Obligations.ValidateKeyDecidesTheCurveEquation := by
  refine ⟨rfl, fun s => ?answer, fun y => ?outside, validKey_y_zero 0, by decide +kernel, fun x y => validKey_neg, G_valid,
    by decide +kernel⟩
  case answer =>
    obtain ⟨completed, table, res1, res2, bit⟩ := complete_bool (validKey (argNat s 0) (argNat s 1)) s
    exact ⟨_, rfl, completed, table, res1, res2, bit, (boolRes_eq_one_iff _).trans (validKey_iff _ _)⟩
  case outside =>
    rw [← Bool.not_eq_true, validKey_iff]
    omega

/-- Settles O20: `properSig` is the four bounds, and HALF_N is N/2 rounded down. -/
theorem checkSigAcceptsExactlyLowS : Obligations.CheckSigAcceptsExactlyLowS := by
  refine ⟨rfl, fun s => ?answer, fun r s proper => ?twin⟩
  case answer =>
    obtain ⟨completed, table, res1, res2, bit⟩ := complete_bool (properSig (argNat s 0) (argNat s 1)) s
    refine ⟨_, rfl, completed, table, res1, res2, bit, ?_⟩
    rw [← halfN_eq]
    exact (boolRes_eq_one_iff _).trans (properSig_iff _ _)
  case twin =>
    obtain ⟨-, -, -, low⟩ := (properSig_iff r s).1 proper
    exact properSig_twin r low

end Sys2Proof.Proofs
end

section
/-! The commands as functions of their operands (rules R42, R287), and VERIFY's, VERIFY_STRICT's and RECOVER's outcomes
(rules R210, R211, R215, R220, R221, R230, R231). -/

namespace Sys2Proof.Proofs

open Sys2Proof.Machine Sys2Proof.Laws

/-! The results of the commands that complete in every state. -/

/-- What a one-value command's completion writes. -/
def valueResults : Except ErrCode Nat → Results
  | .ok x => { res0 := resOf x }
  | .error e => { err := e }

theorem completeValue_eq (v : Except ErrCode Nat) (s : State) : completeValue v s = complete (valueResults v) s := by
  cases v <;> rfl

/-- What RECOVER's completion writes. -/
def recoveryResults : Option Recovery → Results
  | none => {}
  | some k => { res0 := resOf k.point.x, res1 := resOf k.point.y, table := some (storeTable k.table), degen := k.degen }

theorem exec_recover_eq (s : State) :
    exec .recover s =
      .next (complete (recoveryResults (recoverKey (argNat s 0) (argNat s 1) (argNat s 2) (argNat s 3))) s) := by
  simp only [exec, execRecover]
  cases recoverKey (argNat s 0) (argNat s 1) (argNat s 2) (argNat s 3) <;> rfl

/-- What a command other than VERIFY and VERIFY_STRICT writes at its completion. -/
def commandResults (i : Instr) (s : State) : Results :=
  match i with
  | .inv => valueResults (inv (argNat s 0) (argNat s 1))
  | .modexp => valueResults (modpow (argNat s 0) (argNat s 1) (argNat s 2))
  | .validateKey => { res0 := boolRes (validKey (argNat s 0) (argNat s 1)) }
  | .checkSig => { res0 := boolRes (properSig (argNat s 0) (argNat s 1)) }
  | .jadd =>
    if inRange (argPoint1 s) && inRange (argPoint2 s) then
      { res0 := resOf (jadd (argPoint1 s) (argPoint2 s)).x
        res1 := resOf (jadd (argPoint1 s) (argPoint2 s)).y
        res2 := resOf (jadd (argPoint1 s) (argPoint2 s)).z
        degen := jaddDegenerate (argPoint1 s) (argPoint2 s) }
    else { err := .range }
  | .jdbl =>
    if inRange (argPoint1 s) then
      { res0 := resOf (jdbl (argPoint1 s)).x
        res1 := resOf (jdbl (argPoint1 s)).y
        res2 := resOf (jdbl (argPoint1 s)).z
        degen := jdblDegenerate (argPoint1 s) }
    else { err := .range }
  | .toaffine =>
    if inRange (argPoint1 s) then
      { res0 := resOf (toAffine (argPoint1 s)).x, res1 := resOf (toAffine (argPoint1 s)).y }
    else { err := .range }
  | .buildTable =>
    if argNat s 0 ≥ Curve.P ∨ argNat s 1 ≥ Curve.P then { err := .range }
    else
      { table := some (storeTable (build (argNat s 0) (argNat s 1)))
        degen := buildDegenerate (argNat s 0) (argNat s 1) }
  | .shamir =>
    if s.status.tableValid then
      { res0 := resOf (multiply (loadTable s.table) (argNat s 0) (argNat s 1)).x
        res1 := resOf (multiply (loadTable s.table) (argNat s 0) (argNat s 1)).y
        degen := multiplyDegenerate (loadTable s.table) (argNat s 0) (argNat s 1) }
    else { err := .noTable }
  | .recover => recoveryResults (recoverKey (argNat s 0) (argNat s 1) (argNat s 2) (argNat s 3))
  | .verify => {}
  | .verifyStrict => {}

theorem exec_eq_complete {i : Instr} (notVerify : i ≠ .verify) (notStrict : i ≠ .verifyStrict) (s : State) :
    exec i s = .next (complete (commandResults i s) s) := by
  cases i with
  | verify => exact absurd rfl notVerify
  | verifyStrict => exact absurd rfl notStrict
  | inv => exact congrArg Host.Outcome.next (completeValue_eq _ s)
  | modexp => exact congrArg Host.Outcome.next (completeValue_eq _ s)
  | validateKey => rfl
  | checkSig => rfl
  | recover => exact exec_recover_eq s
  | jadd => exact congrArg Host.Outcome.next (apply_ite (complete · s) _ _ _).symm
  | jdbl => exact congrArg Host.Outcome.next (apply_ite (complete · s) _ _ _).symm
  | toaffine => exact congrArg Host.Outcome.next (apply_ite (complete · s) _ _ _).symm
  | buildTable => exact congrArg Host.Outcome.next (apply_ite (complete · s) _ _ _).symm
  | shamir => exact congrArg Host.Outcome.next (apply_ite (complete · s) _ _ _).symm

/-- The operands, the table and TABLE_VALID are all that the results depend on (rule R287). -/
theorem commandResults_congr (i : Instr) {s s' : State} (args : s.args = s'.args) (table : s.table = s'.table)
    (valid : s.status.tableValid = s'.status.tableValid) : commandResults i s = commandResults i s' := by
  have nat : argNat s = argNat s' := funext fun k => by simp only [argNat, args]
  have point1 : argPoint1 s = argPoint1 s' := by simp only [argPoint1, nat]
  have point2 : argPoint2 s = argPoint2 s' := by simp only [argPoint2, nat]
  cases i <;> simp only [commandResults, nat, point1, point2, table, valid]

/-! The range check of the point commands (rule R160). -/

theorem argNat_lt_of_inRange1 {s : State} (first : inRange (argPoint1 s) = true) {i : Fin 6} (small : i < 3) :
    argNat s i < Curve.P := by
  obtain ⟨x, y, z⟩ := (inRange_iff _).1 first
  fin_cases i
  exacts [x, y, z, absurd small (by decide), absurd small (by decide), absurd small (by decide)]

theorem argNat_lt_of_inRange2 {s : State} (second : inRange (argPoint2 s) = true) {i : Fin 6} (large : ¬i < 3) :
    argNat s i < Curve.P := by
  obtain ⟨x, y, z⟩ := (inRange_iff _).1 second
  fin_cases i
  exacts [absurd (by decide) large, absurd (by decide) large, absurd (by decide) large, x, y, z]

theorem inRange1_eq_false {s : State} (big : ∃ i : Fin 6, i < 3 ∧ Curve.P ≤ argNat s i) :
    inRange (argPoint1 s) = false := by
  obtain ⟨i, small, big⟩ := big
  exact Bool.eq_false_iff.2 fun first => absurd (argNat_lt_of_inRange1 first small) (Nat.not_lt.2 big)

theorem inRange_both_eq_false {s : State} (big : ∃ i : Fin 6, Curve.P ≤ argNat s i) :
    (inRange (argPoint1 s) && inRange (argPoint2 s)) = false := by
  obtain ⟨i, big⟩ := big
  refine Bool.eq_false_iff.2 fun both => absurd big (Nat.not_le.2 ?_)
  obtain ⟨first, second⟩ := (Bool.and_eq_true _ _).mp both
  by_cases small : i < 3
  · exact argNat_lt_of_inRange1 first small
  · exact argNat_lt_of_inRange2 second small

/-! VERIFY and VERIFY_STRICT from acceptance. -/

theorem exec_verify_of_run {s : State} {op : Op} {accelEn : Bool} (seq : s.seq = .run op accelEn) :
    exec .verify s = .next (verifyLaunched Config.accelPresent s) := by
  simp only [exec, execVerify, seq]

theorem exec_verifyStrict_of_run {s : State} {op : Op} {accelEn : Bool} (seq : s.seq = .run op accelEn) :
    exec .verifyStrict s = .next (strictLaunched Config.accelPresent s) := by
  simp only [exec, execVerifyStrict, seq]

theorem sampledAccelEn_of_run {s : State} {op : Op} {accelEn : Bool} (seq : s.seq = .run op accelEn) :
    sampledAccelEn s = accelEn := by
  simp only [sampledAccelEn, seq]

theorem verifyLaunched_of_malformed {s : State} (malformed : wellFormedInput s = false) (present : Bool) :
    verifyLaunched present s = complete {} s := by
  simp [verifyLaunched, malformed]

theorem verifyLaunched_of_enabled {s : State} {present : Bool} (valid : wellFormedInput s = true)
    (enabled : (sampledAccelEn s && present) = true) : verifyLaunched present s = sendRequest .verify s := by
  simp only [verifyLaunched, valid, enabled, Bool.not_true, Bool.false_eq_true, if_false, if_true]

theorem verifyLaunched_of_disabled {s : State} {present : Bool} (valid : wellFormedInput s = true)
    (disabled : (sampledAccelEn s && present) = false) : verifyLaunched present s = verifySoftware s := by
  simp only [verifyLaunched, valid, disabled, Bool.not_true, Bool.false_eq_true, if_false]

/-- A launch of VERIFY leaves accel_pending 1 exactly when it sends a request. -/
theorem verifyLaunched_pending_iff {s : State} (notPending : s.accelPending = false) (present : Bool) :
    ((verifyLaunched present s).accelPending = true ↔
        wellFormedInput s = true ∧ sampledAccelEn s = true ∧ present = true) ∧
      ((verifyLaunched present s).accelPending = true → verifyLaunched present s = sendRequest .verify s) := by
  cases valid : wellFormedInput s
  · simp [verifyLaunched_of_malformed valid, notPending]
  · cases enabled : sampledAccelEn s && present
    · have off : ¬(sampledAccelEn s = true ∧ present = true) := by rw [← Bool.and_eq_true, enabled]; decide
      simp [verifyLaunched_of_disabled valid enabled, verifySoftware, notPending, off]
    · have on : sampledAccelEn s = true ∧ present = true := by rw [← Bool.and_eq_true, enabled]
      rw [verifyLaunched_of_enabled valid enabled]
      simp [on]

theorem strictLaunched_of_malformed {s : State} (malformed : wellFormedInput s = false) (present : Bool) :
    strictLaunched present s = complete {} s := by
  simp [strictLaunched, malformed]

theorem strictLaunched_of_valid {s : State} (valid : wellFormedInput s = true) (present : Bool) :
    strictLaunched present s = if present then sendRequest .verifyStrict s else raiseError .accelUnavailable s := by
  simp only [strictLaunched, valid, Bool.not_true, Bool.false_eq_true, if_false]

/-- A launch of VERIFY_STRICT leaves accel_pending 1 exactly when it sends a request. -/
theorem strictLaunched_pending_iff {s : State} (notPending : s.accelPending = false) (present : Bool) :
    ((strictLaunched present s).accelPending = true ↔ wellFormedInput s = true ∧ present = true) ∧
      ((strictLaunched present s).accelPending = true → strictLaunched present s = sendRequest .verifyStrict s) := by
  cases valid : wellFormedInput s
  · simp [strictLaunched_of_malformed valid, notPending]
  · cases present <;> simp [strictLaunched_of_valid valid, raiseError, notPending]

/-- The completion with all results 0, no error and no table: malformed input, and RECOVER's sentinel cases. -/
theorem complete_default (s : State) :
    CompletedWith s (complete {} s) .noError false false ∧ ResultsAre (complete {} s) 0 0 0 ∧
      TableUntouched s (complete {} s) :=
  ⟨completedWith_complete _ s, ⟨rfl, rfl, rfl⟩, tableUntouched_complete rfl s⟩

/-- What VERIFY's software path writes (rules R210, R211). -/
theorem verifySoftware_completes (s : State) :
    CompletedWith s (verifySoftware s) .noError false
        (verifySW (argNat s 0) (argNat s 1) (argNat s 2) (argNat s 3) (argNat s 4)).degen ∧
      TableWritten (verifySoftware s) (build (argNat s 3) (argNat s 4)) ∧
      ResultsAre (verifySoftware s)
        (boolRes (verifySW (argNat s 0) (argNat s 1) (argNat s 2) (argNat s 3) (argNat s 4)).valid) 0 0 :=
  ⟨completedWith_complete _ s, tableWritten_complete rfl s, rfl, rfl, rfl⟩

/-- What the completion on an authoritative answer writes (rules R211, R215). -/
theorem completeAccel_completes (b : Bool) (s : State) :
    CompletedWith s (completeAccel b s) .noError true false ∧ TableUntouched s (completeAccel b s) ∧
      ResultsAre (completeAccel b s) (if b then 1 else 0) 0 0 :=
  ⟨completedWith_complete _ s, tableUntouched_complete rfl s, rfl, rfl, rfl⟩

theorem exec_verify_of_answer {s : State} {op : Instr} {p : Payload} {a : AccelResponse}
    (seq : s.seq = .waitAccel op p (some a)) : exec .verify s = .next (verifyAnswered a s) := by
  simp only [exec, execVerify, seq]

theorem exec_verifyStrict_of_answer {s : State} {op : Instr} {p : Payload} {a : AccelResponse}
    (seq : s.seq = .waitAccel op p (some a)) : exec .verifyStrict s = .next (strictAnswered a s) := by
  simp only [exec, execVerifyStrict, seq]

/-- VERIFY's results when it sends no request. -/
def verifyResults (s : State) : Results :=
  if wellFormedInput s then
    let v := verifySW (argNat s 0) (argNat s 1) (argNat s 2) (argNat s 3) (argNat s 4)
    { res0 := boolRes v.valid, table := some (storeTable v.table), degen := v.degen }
  else {}

/-- With ACCEL_EN sampled 0, or without an accelerator, VERIFY completes in one step (rules R211, R287). -/
theorem exec_verify_of_disabled {s : State} {op : Op} {accelEn : Bool} (seq : s.seq = .run op accelEn)
    (disabled : accelEn = false ∨ Config.accelPresent = false) :
    exec .verify s = .next (complete (verifyResults s) s) := by
  have off : (sampledAccelEn s && Config.accelPresent) = false := by
    rw [sampledAccelEn_of_run seq]
    rcases disabled with off | absent <;> simp [*]
  rw [exec_verify_of_run seq, verifyResults]
  cases valid : wellFormedInput s
  · rw [verifyLaunched_of_malformed valid]; rfl
  · rw [verifyLaunched_of_disabled valid off]; rfl

theorem exec_verify_software_of_disabled {s : State} {op : Op} {accelEn : Bool} (seq : s.seq = .run op accelEn)
    (disabled : accelEn = false ∨ Config.accelPresent = false) (valid : wellFormedInput s = true) :
    exec .verify s = .next (verifySoftware s) := by
  rw [exec_verify_of_disabled seq disabled, verifyResults, valid]
  rfl

theorem verifyResults_congr {s s' : State} (args : s.args = s'.args) : verifyResults s = verifyResults s' := by
  have nat : argNat s = argNat s' := funext fun k => by simp only [argNat, args]
  have wellFormed : wellFormedInput s = wellFormedInput s' := by simp only [wellFormedInput, nat]
  simp only [verifyResults, wellFormed, nat]

/-! The scalars of the software path, and RECOVER's steps (rules R210, R230). -/

theorem wellFormedInput_iff (s : State) :
    wellFormedInput s = true ↔
      properSig (argNat s 1) (argNat s 2) = true ∧ validKey (argNat s 3) (argNat s 4) = true := by
  simp [wellFormedInput]

/-- A number in [1, N) has its inverse in [1, N) (rules R32, R112, R210). -/
theorem mul_invValue_N {a : Nat} (pos : 0 < a) (below : a < Curve.N) :
    invValue a Curve.N < Curve.N ∧ a * invValue a Curve.N % Curve.N = 1 :=
  ⟨invValue_lt N_pos a, mul_invValue_mod N_prime (by decide) (by rw [Nat.mod_eq_of_lt below]; omega)⟩

/-- Steps 1 and 4 of RECOVER answer the sentinel. -/
theorem recoverKey_of_improper {h v r s : Nat} (improper : properSig r s = false ∨ 1 < v) : recoverKey h v r s = none := by
  rcases improper with improper | big <;> simp [recoverKey, *]

theorem recoverKey_of_not_square {h v r s : Nat} (noRoot : sqrP (recoverRoot r) ≠ curveRhs r) :
    recoverKey h v r s = none := by
  unfold recoverKey
  split
  · rfl
  · exact if_pos noRoot

theorem recoverKey_of_root {h v r s : Nat} (proper : properSig r s = true) (small : v ≤ 1)
    (root : sqrP (recoverRoot r) = curveRhs r) :
    recoverKey h v r s = some
      { point := multiply (build r (recoverY v (recoverRoot r))) (mulN (Curve.N - h % Curve.N) (invValue r Curve.N))
          (mulN s (invValue r Curve.N))
        table := build r (recoverY v (recoverRoot r))
        degen := buildDegenerate r (recoverY v (recoverRoot r)) ||
          multiplyDegenerate (build r (recoverY v (recoverRoot r)))
            (mulN (Curve.N - h % Curve.N) (invValue r Curve.N)) (mulN s (invValue r Curve.N)) } := by
  have notBig : ¬v > 1 := by omega
  simp [recoverKey, proper, notBig, root]

/-- Step 3's candidate is a root exactly when there is one (rules R125, R230). -/
theorem sqrP_recoverRoot_iff (r : Nat) :
    sqrP (recoverRoot r) = curveRhs r ↔ IsSquare ((r : ZMod Curve.P) ^ 3 + Curve.A * r + Curve.B) := by
  rw [← curveRhs_cast]
  constructor
  · intro root
    exact ⟨recoverRoot r, by rw [← root, sqrP, mulP_cast]⟩
  · intro square
    refine eq_of_cast_eq (mulP_lt _ _) (curveRhs_lt r) ?_
    rw [sqrP, mulP_cast, ← pow_two, recoverRoot, modPow_eq P_pos (by decide), ZMod.natCast_mod, Nat.cast_pow,
      pow_root_sq square]

/-- Step 5's choice has the parity of v: P is odd, so the two roots have different parities. -/
theorem recoverY_spec {r v : Nat} (small : v ≤ 1) (rBelow : r < Curve.P) (root : sqrP (recoverRoot r) = curveRhs r) :
    0 < recoverY v (recoverRoot r) ∧ recoverY v (recoverRoot r) < Curve.P ∧ recoverY v (recoverRoot r) % 2 = v ∧
      validKey r (recoverY v (recoverRoot r)) = true := by
  have below : recoverRoot r < Curve.P := modPow_lt P_pos _ _
  obtain ⟨pos, lt⟩ := recoverY_range (v := v) below root
  have valid : validKey r (recoverRoot r) = true := by
    refine validKey_of_curve_equation rBelow below ?_
    rw [← curveRhs_cast, ← root, sqrP, mulP_cast, pow_two]
  have odd := P_mod_four
  refine ⟨pos, lt, ?_, ?_⟩
  · unfold recoverY at pos ⊢
    split <;> omega
  · unfold recoverY
    split
    · exact validKey_neg valid
    · exact valid

end Sys2Proof.Proofs
end

section
/-! The obligations of the commands as functions of their operands, and of verification and recovery. -/

namespace Sys2Proof.Proofs

open Sys2Proof.Machine Sys2Proof.Laws

/-- Settles O47: a step of a running command leaves STATUS without an error, or raises one of the command's errors. -/
theorem errorsPossiblePerCommand : Obligations.ErrorsPossiblePerCommand := by
  refine ⟨fun i s t inv running run => ?command, fun s t ⟨accelEn, seq⟩ run => ?illegal⟩
  case command =>
    have possible : t.status.err ∈ errorsOf i := by
      have noError : ErrCode.noError ∈ errorsOf i := by cases i <;> decide
      cases exec_errorEffect run with
      | keepsStatus status => rw [status, err_of_running inv running]; exact noError
      | succeeds r success => rw [complete_status, statusCompleted_err, success]; exact noError
      | raises code possible => exact possible
    cases i <;> exact possible
  case illegal => cases (sequencerTurn_of_illegal seq).symm.trans run; rfl

/-- Settles O21: a failed range check raises RANGE. -/
theorem pointOperandsOutOfRangeAreRejected : Obligations.PointOperandsOutOfRangeAreRejected := by
  refine ⟨rfl, fun s big => ?jadd, fun s big => ?jdbl, fun s big => ?toaffine⟩
  all_goals refine ⟨raiseError .range s, ?_, errorCompletion_raiseError .range s⟩
  case jadd => simp [exec, execJadd, inRange_both_eq_false big]
  case jdbl => simp [exec, execJdbl, inRange1_eq_false big]
  case toaffine => simp [exec, execToaffine, inRange1_eq_false big]

/-- Settles O51: a command's results are a function of the operands, the table and TABLE_VALID; VERIFY's without a request,
of its operands. -/
theorem commandsDependOnlyOnOperandsAndTable : Obligations.CommandsDependOnlyOnOperandsAndTable := by
  refine ⟨fun i s s' t t' notVerify notStrict args table valid run run' => ?commands,
    fun s s' t t' op op' accelEn accelEn' seq seq' disabled args run run' => ?verify⟩
  case commands =>
    cases (exec_eq_complete notVerify notStrict s).symm.trans run
    cases (exec_eq_complete notVerify notStrict s').symm.trans run'
    simp only [commandResults_congr i args table valid, complete_res, complete_status, complete_table, statusCompleted_err,
      statusCompleted_degen, statusCompleted_accelUsed, statusCompleted_tableValid, table, valid, and_self]
  case verify =>
    have off : accelEn = false ∨ Config.accelPresent = false := disabled.imp_left And.left
    have off' : accelEn' = false ∨ Config.accelPresent = false := disabled.imp_left And.right
    cases (exec_verify_of_disabled seq off).symm.trans run
    cases (exec_verify_of_disabled seq' off').symm.trans run'
    simp only [verifyResults_congr args, complete_res, complete_status, statusCompleted_err, statusCompleted_degen,
      statusCompleted_accelUsed, and_self]

/-- Settles O36: each of the conditions fails the validation, which comes before the accelerator. -/
theorem verifyAnswersZeroOnMalformedInput : Obligations.VerifyAnswersZeroOnMalformedInput := by
  refine ⟨fun s op accelEn seq malformed => ?answer, fun r s _ low => properSig_twin r low⟩
  have rejected : wellFormedInput s = false := by
    rw [← Bool.not_eq_true, wellFormedInput_iff, properSig_iff, validKey_iff]
    rintro ⟨⟨rPos, rBelow, sPos, low⟩, xBelow, yBelow, equation⟩
    rcases malformed with h | h | h | h | h | h | h
    case inr.inr.inr.inr.inr.inr => exact h equation
    all_goals omega
  exact ⟨complete {} s, by rw [exec_verify_of_run seq, verifyLaunched_of_malformed rejected], complete_default s⟩

/-- Settles O37: without a request VERIFY completes with verifySW, whose w is the inverse by Fermat's little theorem. -/
theorem verifySoftwarePathComputesTheVerdict : Obligations.VerifySoftwarePathComputesTheVerdict := by
  intro s op accelEn seq valid disabled
  obtain ⟨proper, -⟩ := (wellFormedInput_iff s).1 valid
  obtain ⟨-, -, sPos, low⟩ := (properSig_iff _ _).1 proper
  have twice := two_halfN
  obtain ⟨below, inverse⟩ := mul_invValue_N sPos (by omega)
  obtain ⟨completed, table, results⟩ := verifySoftware_completes s
  refine ⟨verifySoftware s, invValue (argNat s 2) Curve.N, below, inverse,
    exec_verify_software_of_disabled seq disabled valid, completed, table, ?_⟩
  convert results using 1
  simp only [boolRes, verifySW, mulN, beq_iff_eq]

/-- Settles O38: a completion leaves accel_pending 0, and the request is sent on the two launches' last condition. -/
theorem requestsAreSentExactlyWhenEnabled : Obligations.RequestsAreSentExactlyWhenEnabled := by
  intro s op accelEn seq notPending
  obtain ⟨verify, request⟩ := verifyLaunched_pending_iff notPending Config.accelPresent
  rw [sampledAccelEn_of_run seq] at verify
  obtain ⟨strict, strictRequest⟩ := strictLaunched_pending_iff notPending Config.accelPresent
  exact ⟨⟨_, exec_verify_of_run seq, verify, request⟩, _, exec_verifyStrict_of_run seq, strict, strictRequest⟩

/-- Settles O39: VERIFY's completion follows the latched answer. -/
theorem verifyFollowsTheResponse : Obligations.VerifyFollowsTheResponse := by
  intro s op p
  refine ⟨fun b seq => ?valid, fun seq => ?reserved, fun seq => ?unsupported, fun seq => ?none⟩
  case valid => exact ⟨_, exec_verify_of_answer seq, completeAccel_completes b s⟩
  case reserved => exact ⟨_, exec_verify_of_answer seq, errorCompletion_raiseError .accelFault s⟩
  case unsupported => exact ⟨_, exec_verify_of_answer seq, verifySoftware_completes s⟩
  case none => exact exec_of_awaiting (.inl rfl) seq

/-- Settles O40: VERIFY_STRICT's launch judges the input first, and no branch runs the software path. -/
theorem verifyStrictOutcomes : Obligations.VerifyStrictOutcomes := by
  refine ⟨rfl, rfl, rfl, fun s op accelEn seq => ⟨fun malformed => ?malformed, fun valid => ?launched⟩,
    fun s op p => ⟨fun b seq => ?valid, fun seq => ?unsupported, fun seq => ?reserved⟩⟩
  case malformed =>
    exact ⟨complete {} s, by rw [exec_verifyStrict_of_run seq, strictLaunched_of_malformed malformed], complete_default s⟩
  case launched =>
    refine ⟨_, exec_verifyStrict_of_run seq, ?_⟩
    rw [strictLaunched_of_valid valid]
    split
    · rfl
    · exact errorCompletion_raiseError .accelUnavailable s
  case valid => exact ⟨_, exec_verifyStrict_of_answer seq, completeAccel_completes b s⟩
  case unsupported => exact ⟨_, exec_verifyStrict_of_answer seq, errorCompletion_raiseError .accelUnavailable s⟩
  case reserved => exact ⟨_, exec_verifyStrict_of_answer seq, errorCompletion_raiseError .accelFault s⟩

/-- Settles O42: a candidate root passes step 4 only where there is a root. -/
theorem recoverSentinelCases : Obligations.RecoverSentinelCases := by
  intro s bad
  have none : recoverKey (argNat s 0) (argNat s 1) (argNat s 2) (argNat s 3) = none := by
    rcases bad with improper | big | noSquare
    · exact recoverKey_of_improper (.inl improper)
    · exact recoverKey_of_improper (.inr big)
    · exact recoverKey_of_not_square (mt (sqrP_recoverRoot_iff _).1 noSquare)
  exact ⟨complete {} s, by rw [exec_recover_eq, none, recoveryResults], complete_default s⟩

/-- Settles O43: the candidate is a root, step 5 picks the one of v's parity, and w is the inverse of r by Fermat's little
theorem. -/
theorem recoverMultipliesTheEphemeralPoint : Obligations.RecoverMultipliesTheEphemeralPoint := by
  intro s proper small square
  obtain ⟨rPos, rBelow, -, -⟩ := (properSig_iff _ _).1 proper
  have root := (sqrP_recoverRoot_iff _).2 square
  obtain ⟨yPos, yBelow, parity, valid⟩ := recoverY_spec small (rBelow.trans N_lt_P) root
  obtain ⟨wBelow, inverse⟩ := mul_invValue_N rPos rBelow
  have run := exec_recover_eq s
  rw [recoverKey_of_root proper small root, recoveryResults] at run
  simp only [mulN] at run
  refine ⟨_, _, _, yPos, yBelow, parity, valid, wBelow, inverse, run, ?_, ?_, ?_⟩
  · convert completedWith_complete _ s
  · exact tableWritten_complete rfl s
  · exact ⟨rfl, rfl, rfl⟩

end Sys2Proof.Proofs
end

section
/-! The point operations in the field: degenerate and swapped operands, scaling, and the affine form (rules R161 to R167). -/

namespace Sys2Proof.Proofs

open Sys2Proof.Machine Sys2Proof.Laws

/-! Degenerate additions (rules R161, R166). -/

theorem subP_self (a : Nat) : subP a a = 0 := by simp [subP]

/-- Equal operands have h = r = 0, and so every product in the formulas is 0. -/
theorem jadd_self (p : Jac) : jadd p p = { x := 0, y := 0, z := 0 } := by
  have h : jaddH p p = 0 := subP_self _
  have r : jaddR p p = 0 := subP_self _
  simp [jadd, h, r, mulP, subP]

theorem jaddDegenerate_self (p : Jac) : jaddDegenerate p p = true := by
  have h : jaddH p p = 0 := subP_self _
  simp [jaddDegenerate, h]

theorem jadd_z_of_marked {p q : Jac} (marked : p.z = 0 ∨ q.z = 0) : (jadd p q).z = 0 := by
  rcases marked with z | z <;> simp [jadd, mulP, z]

theorem jaddDegenerate_of_marked {p q : Jac} (marked : p.z = 0 ∨ q.z = 0) : jaddDegenerate p q = true := by
  rcases marked with z | z <;> simp [jaddDegenerate, z]

/-- The negative of an operand has its x and z, so h = 0. -/
theorem jaddH_of_negative (p : Jac) (y : Nat) : jaddH p { p with y := y } = 0 := subP_self _

/-- With h = 0 the formulas are those of r alone. -/
theorem jadd_cast_of_h_zero {p q : Jac} (h : jaddH p q = 0) :
    ((jadd p q).x : ZMod Curve.P) = (jaddR p q : ZMod Curve.P) ^ 2 ∧
      ((jadd p q).y : ZMod Curve.P) = -(jaddR p q : ZMod Curve.P) ^ 3 := by
  have x : ((jadd p q).x : ZMod Curve.P) = (jaddR p q : ZMod Curve.P) ^ 2 := by
    rw [jadd_x_cast, h]
    push_cast; ring
  refine ⟨x, ?_⟩
  rw [jadd_y_cast, x, h]
  push_cast; ring

theorem jadd_z_of_h_zero {p q : Jac} (h : jaddH p q = 0) : (jadd p q).z = 0 := by simp [jadd, h, mulP]

theorem jaddDegenerate_of_h_zero {p q : Jac} (h : jaddH p q = 0) : jaddDegenerate p q = true := by
  simp [jaddDegenerate, h]

/-! Swapped operands (rule R161): h and r are negated. -/

theorem jaddH_swap (p q : Jac) : (jaddH q p : ZMod Curve.P) = -jaddH p q := by
  rw [jaddH_cast, jaddH_cast]; ring

theorem jaddR_swap (p q : Jac) : (jaddR q p : ZMod Curve.P) = -jaddR p q := by
  rw [jaddR_cast, jaddR_cast]; ring

theorem jaddU_swap (p q : Jac) : (jaddU q p : ZMod Curve.P) = jaddU p q + jaddH p q := by
  rw [jaddU_cast, jaddU_cast, jaddH_cast]; ring

theorem jaddS_swap (p q : Jac) : (jaddS q p : ZMod Curve.P) = jaddS p q + jaddR p q := by
  rw [jaddS_cast, jaddS_cast, jaddR_cast]; ring

theorem jadd_swap_cast (p q : Jac) :
    ((jadd q p).x : ZMod Curve.P) = (jadd p q).x ∧ ((jadd q p).y : ZMod Curve.P) = -(jadd p q).y ∧
      ((jadd q p).z : ZMod Curve.P) = -(jadd p q).z := by
  have x : ((jadd q p).x : ZMod Curve.P) = (jadd p q).x := by
    rw [jadd_x_cast, jadd_x_cast, jaddH_swap, jaddR_swap, jaddU_swap]; ring
  refine ⟨x, ?_, ?_⟩
  · rw [jadd_y_cast, jadd_y_cast, x, jaddH_swap, jaddR_swap, jaddU_swap, jaddS_swap]; ring
  · rw [jadd_z_cast, jadd_z_cast, jaddH_swap]; ring

/-- A natural below P with the negated class is the negative modulo P. -/
theorem eq_P_sub_mod_of_cast_eq_neg {a b : Nat} (aBelow : a < Curve.P) (bBelow : b < Curve.P)
    (negated : (a : ZMod Curve.P) = -b) : a = (Curve.P - b) % Curve.P := by
  refine eq_of_cast_eq aBelow (Nat.mod_lt _ P_pos) ?_
  rw [ZMod.natCast_mod, cast_P_sub bBelow.le, negated]

/-- Swapping jadd's operands keeps X' and negates Y' and Z'. -/
theorem jadd_swap (p q : Jac) :
    (jadd q p).x = (jadd p q).x ∧ (jadd q p).y = (Curve.P - (jadd p q).y) % Curve.P ∧
      (jadd q p).z = (Curve.P - (jadd p q).z) % Curve.P := by
  obtain ⟨x, y, z⟩ := jadd_swap_cast p q
  obtain ⟨ltX, ltY, ltZ⟩ := jadd_lt p q
  obtain ⟨ltX', ltY', ltZ'⟩ := jadd_lt q p
  exact ⟨eq_of_cast_eq ltX' ltX x, eq_P_sub_mod_of_cast_eq_neg ltY' ltY y, eq_P_sub_mod_of_cast_eq_neg ltZ' ltZ z⟩

theorem cast_eq_zero_iff {a : Nat} (below : a < Curve.P) : (a : ZMod Curve.P) = 0 ↔ a = 0 := by
  refine ⟨fun zero => eq_of_cast_eq below P_pos (by rw [zero, Nat.cast_zero]), ?_⟩
  rintro rfl
  exact Nat.cast_zero

theorem jaddH_swap_eq_zero_iff (p q : Jac) : jaddH q p = 0 ↔ jaddH p q = 0 := by
  have below (a b : Jac) : jaddH a b < Curve.P := subP_lt _ _
  rw [← cast_eq_zero_iff (below q p), ← cast_eq_zero_iff (below p q), jaddH_swap, neg_eq_zero]

theorem jaddDegenerate_eq_true_iff (p q : Jac) :
    jaddDegenerate p q = true ↔ p.z = 0 ∨ q.z = 0 ∨ jaddH p q = 0 := by
  simp [jaddDegenerate, or_assoc]

theorem jaddDegenerate_swap (p q : Jac) : jaddDegenerate q p = jaddDegenerate p q := by
  rw [Bool.eq_iff_iff, jaddDegenerate_eq_true_iff, jaddDegenerate_eq_true_iff, jaddH_swap_eq_zero_iff]
  tauto

/-! The affine form (rule R165). -/

theorem toAffine_of_marked {p : Jac} (z : p.z = 0) : toAffine p = sentinel := if_pos z

theorem toAffine_of_unmarked {p : Jac} (z : p.z ≠ 0) :
    toAffine p =
      { x := mulP p.x (mulP (invValue p.z Curve.P) (invValue p.z Curve.P))
        y := mulP p.y (mulP (mulP (invValue p.z Curve.P) (invValue p.z Curve.P)) (invValue p.z Curve.P)) } := if_neg z

/-- inv's value modulo P is the field's inverse of a number in [1, P). -/
theorem mul_invValue_cast {z : Nat} (pos : z ≠ 0) (below : z < Curve.P) :
    (z : ZMod Curve.P) * invValue z Curve.P = 1 := by
  have inverse : z * invValue z Curve.P % Curve.P = 1 :=
    mul_invValue_mod P_prime P_lt_two_pow (by rwa [Nat.mod_eq_of_lt below])
  have cast := congrArg (Nat.cast (R := ZMod Curve.P)) inverse
  simpa only [ZMod.natCast_mod, Nat.cast_mul, Nat.cast_one] using cast

/-- The affine form's coordinates by multiplication: x·Z² = X and y·Z³ = Y in the field. -/
theorem toAffine_cast {p : Jac} (z : p.z ≠ 0) (below : p.z < Curve.P) :
    ((toAffine p).x : ZMod Curve.P) * (p.z : ZMod Curve.P) ^ 2 = p.x ∧
      ((toAffine p).y : ZMod Curve.P) * (p.z : ZMod Curve.P) ^ 3 = p.y := by
  have inverse := mul_invValue_cast z below
  rw [toAffine_of_unmarked z]
  simp only [mulP_cast]
  constructor
  · linear_combination (p.x : ZMod Curve.P) * ((p.z : ZMod Curve.P) * invValue p.z Curve.P + 1) * inverse
  · linear_combination (p.y : ZMod Curve.P) *
      (((p.z : ZMod Curve.P) * invValue p.z Curve.P) ^ 2 + (p.z : ZMod Curve.P) * invValue p.z Curve.P + 1) * inverse

theorem cast_ne_zero {a : Nat} (pos : a ≠ 0) (below : a < Curve.P) : (a : ZMod Curve.P) ≠ 0 :=
  mt (cast_eq_zero_iff below).1 pos

/-- The only pair below P with x·Z² ≡ X and y·Z³ ≡ Y is the affine form. -/
theorem toAffine_eq_iff {p : Jac} (below : JacLt p) (z : p.z ≠ 0) {x y : Nat} (xBelow : x < Curve.P)
    (yBelow : y < Curve.P) :
    ((toAffine p).x = x ∧ (toAffine p).y = y) ↔
      (x * p.z ^ 2 % Curve.P = p.x ∧ y * p.z ^ 3 % Curve.P = p.y) := by
  have : Fact Curve.P.Prime := ⟨P_prime⟩
  obtain ⟨ltX, ltY, ltZ⟩ := below
  obtain ⟨affX, affY⟩ := toAffine_lt p
  obtain ⟨castX, castY⟩ := toAffine_cast z ltZ
  have zNe := cast_ne_zero z ltZ
  have coordinate {a b c n : Nat} (aBelow : a < Curve.P) (bBelow : b < Curve.P) (cBelow : c < Curve.P)
      (cast : (a : ZMod Curve.P) * (p.z : ZMod Curve.P) ^ n = c) : a = b ↔ b * p.z ^ n % Curve.P = c := by
    constructor
    · rintro rfl
      refine eq_of_cast_eq (Nat.mod_lt _ P_pos) cBelow ?_
      rw [ZMod.natCast_mod]; push_cast; exact cast
    · intro product
      have cast' := congrArg (Nat.cast (R := ZMod Curve.P)) product
      rw [ZMod.natCast_mod] at cast'
      push_cast at cast'
      exact eq_of_cast_eq aBelow bBelow (mul_right_cancel₀ (pow_ne_zero n zNe) (cast.trans cast'.symm))
  rw [coordinate affX xBelow ltX castX, coordinate affY yBelow ltY castY]

/-- A triple with Z = 1 is its own affine form. -/
theorem toAffine_of_one {p : Jac} (below : JacLt p) (one : p.z = 1) : toAffine p = { x := p.x, y := p.y } := by
  have jacLt := below
  obtain ⟨ltX, ltY, -⟩ := below
  obtain ⟨x, y⟩ := (toAffine_eq_iff jacLt (by rw [one]; decide) ltX ltY).2
    ⟨by rw [one, one_pow, mul_one, Nat.mod_eq_of_lt ltX], by rw [one, one_pow, mul_one, Nat.mod_eq_of_lt ltY]⟩
  cases h : toAffine p with
  | mk a b => simp_all

theorem exec_toaffine_of_inRange {s : State} (operand : inRange (argPoint1 s) = true) :
    exec .toaffine s = .next (complete
      { res0 := resOf (toAffine (argPoint1 s)).x, res1 := resOf (toAffine (argPoint1 s)).y } s) :=
  congrArg Host.Outcome.next (if_pos operand)

theorem resOf_argNat (s : State) (i : Fin 6) : resOf (argNat s i) = s.args[i] := by
  rw [resOf, argNat, BitVec.ofNat_toNat, BitVec.setWidth_eq]

/-! The chord and tangent laws (rule R167): the formulas of rules R162 and R164 divided by powers of Z, in any field. -/

section

variable {F : Type*} [Field F]

theorem chord_slope {x1 y1 z1 x2 y2 z2 h r : F} (z1Ne : z1 ≠ 0) (z2Ne : z2 ≠ 0) (hNe : h ≠ 0)
    (hEq : h = x2 * z1 ^ 2 - x1 * z2 ^ 2) (rEq : r = y2 * z1 ^ 3 - y1 * z2 ^ 3) :
    (y2 / z2 ^ 3 - y1 / z1 ^ 3) * (x2 / z2 ^ 2 - x1 / z1 ^ 2)⁻¹ = r / (h * (z1 * z2)) := by
  have x : x2 / z2 ^ 2 - x1 / z1 ^ 2 = h / (z1 * z2) ^ 2 := by rw [hEq]; field_simp
  have y : y2 / z2 ^ 3 - y1 / z1 ^ 3 = r / (z1 * z2) ^ 3 := by rw [rEq]; field_simp
  rw [x, y]
  field_simp

theorem chord_x {x1 z1 x2 z2 h r : F} (z1Ne : z1 ≠ 0) (z2Ne : z2 ≠ 0) (hNe : h ≠ 0)
    (hEq : h = x2 * z1 ^ 2 - x1 * z2 ^ 2) :
    (r ^ 2 - h ^ 3 - 2 * (x1 * z2 ^ 2 * h ^ 2)) / (h * (z1 * z2)) ^ 2 =
      (r / (h * (z1 * z2))) ^ 2 - x1 / z1 ^ 2 - x2 / z2 ^ 2 := by
  field_simp
  rw [hEq]; ring

theorem chord_y {x1 y1 z1 z2 h r x' : F} (z1Ne : z1 ≠ 0) (z2Ne : z2 ≠ 0) (hNe : h ≠ 0) :
    (r * (x1 * z2 ^ 2 * h ^ 2 - x') - y1 * z2 ^ 3 * h ^ 3) / (h * (z1 * z2)) ^ 3 =
      r / (h * (z1 * z2)) * (x1 / z1 ^ 2 - x' / (h * (z1 * z2)) ^ 2) - y1 / z1 ^ 3 := by
  field_simp

theorem tangent_slope {a x y z m : F} (zNe : z ≠ 0) (yNe : y ≠ 0) (two : (2 : F) ≠ 0)
    (mEq : m = 3 * x ^ 2 + a * z ^ 4) :
    (3 * (x / z ^ 2) ^ 2 + a) * (2 * (y / z ^ 3))⁻¹ = m / (2 * (y * z)) := by
  rw [mEq]; field_simp

theorem tangent_x {x y z m : F} (zNe : z ≠ 0) (yNe : y ≠ 0) (two : (2 : F) ≠ 0) :
    (m ^ 2 - 8 * (x * y ^ 2)) / (2 * (y * z)) ^ 2 = (m / (2 * (y * z))) ^ 2 - 2 * (x / z ^ 2) := by
  field_simp; ring

theorem tangent_y {x y z m x' : F} (zNe : z ≠ 0) (yNe : y ≠ 0) (two : (2 : F) ≠ 0) :
    (m * (4 * (x * y ^ 2) - x') - 8 * y ^ 4) / (2 * (y * z)) ^ 3 =
      m / (2 * (y * z)) * (x / z ^ 2 - x' / (2 * (y * z)) ^ 2) - y / z ^ 3 := by
  field_simp; ring

end

/-! The affine forms of jadd and jdbl. -/

theorem toAffine_cast_div [Fact Curve.P.Prime] {p : Jac} (z : p.z ≠ 0) (below : p.z < Curve.P) :
    ((toAffine p).x : ZMod Curve.P) = p.x / (p.z : ZMod Curve.P) ^ 2 ∧
      ((toAffine p).y : ZMod Curve.P) = p.y / (p.z : ZMod Curve.P) ^ 3 := by
  obtain ⟨x, y⟩ := toAffine_cast z below
  have zNe := cast_ne_zero z below
  exact ⟨eq_div_of_mul_eq (pow_ne_zero 2 zNe) x, eq_div_of_mul_eq (pow_ne_zero 3 zNe) y⟩

theorem jaddDegenerate_eq_false_iff (p q : Jac) :
    jaddDegenerate p q = false ↔ p.z ≠ 0 ∧ q.z ≠ 0 ∧ jaddH p q ≠ 0 := by
  rw [← Bool.not_eq_true, jaddDegenerate_eq_true_iff, not_or, not_or]

theorem jdblDegenerate_eq_false_iff (p : Jac) : jdblDegenerate p = false ↔ p.z ≠ 0 ∧ p.y ≠ 0 := by
  simp [jdblDegenerate]

/-- A number with a nonzero class is not 0. -/
theorem ne_zero_of_cast {a : Nat} (cast : (a : ZMod Curve.P) ≠ 0) : a ≠ 0 := by
  rintro rfl
  exact cast Nat.cast_zero

theorem two_ne_zero_P : (2 : ZMod Curve.P) ≠ 0 := by
  have two := cast_ne_zero (a := 2) (by decide) (by decide)
  exact_mod_cast two

end Sys2Proof.Proofs
end

section
/-! The obligations of the point operations' corner cases and laws. -/

namespace Sys2Proof.Proofs

open Sys2Proof.Machine Sys2Proof.Laws

/-- Settles O23: equal operands and an operand's negative have h = 0; an identity-marked operand makes Z' = 0. -/
theorem jaddDegenerateCorners : Obligations.JaddDegenerateCorners := by
  refine ⟨fun p => ⟨jadd_self p, jaddDegenerate_self p⟩,
    fun p q marked => ⟨jadd_z_of_marked marked, jaddDegenerate_of_marked marked⟩, fun p _ _ _ => ?_⟩
  have h := jaddH_of_negative p (Curve.P - p.y)
  obtain ⟨x, y⟩ := jadd_cast_of_h_zero h
  exact ⟨jadd_z_of_h_zero h, x, y, jaddDegenerate_of_h_zero h⟩

/-- Settles O24: swapping the operands negates h and r, and with them Y' and Z'. -/
theorem jaddSwappedOperandsNegate : Obligations.JaddSwappedOperandsNegate := by
  intro s s' below arg0 arg1 arg2 arg3 arg4 arg5
  have first : argPoint1 s' = argPoint2 s := by
    rw [argPoint1, argPoint2, show argNat s' 0 = argNat s 3 from congrArg BitVec.toNat arg0,
      show argNat s' 1 = argNat s 4 from congrArg BitVec.toNat arg1,
      show argNat s' 2 = argNat s 5 from congrArg BitVec.toNat arg2]
  have second : argPoint2 s' = argPoint1 s := by
    rw [argPoint1, argPoint2, show argNat s' 3 = argNat s 0 from congrArg BitVec.toNat arg3,
      show argNat s' 4 = argNat s 1 from congrArg BitVec.toNat arg4,
      show argNat s' 5 = argNat s 2 from congrArg BitVec.toNat arg5]
  have inRange1 : inRange (argPoint1 s) = true := inRange_argPoint1 fun i _ => below i
  have inRange2 := inRange_argPoint2 below
  have run := exec_jadd_of_inRange inRange1 inRange2
  have run' := exec_jadd_of_inRange (first ▸ inRange2) (second ▸ inRange1)
  rw [first, second] at run'
  set p := argPoint1 s
  set q := argPoint2 s
  obtain ⟨resX, resY, resZ⟩ := completePoint_res (jadd_lt p q) (jaddDegenerate p q) s
  obtain ⟨resX', resY', resZ'⟩ := completePoint_res (jadd_lt q p) (jaddDegenerate q p) s'
  obtain ⟨x, y, z⟩ := jadd_swap p q
  refine ⟨_, _, run, run', jaddDegenerate_swap p q, ?_, ?_, ?_⟩
  · rw [← BitVec.toNat_inj, resX', resX, x]
  · rw [resY', resY, y]
  · rw [resZ', resZ, z]

/-- Settles O26: the formulas of rule R164 are homogeneous, of weights 8, 12 and 4. -/
theorem jdblRespectsScaling : Obligations.JdblRespectsScaling := by
  intro l p q x y z
  have x' : ((jdbl q).x : ZMod Curve.P) = (l ^ 4) ^ 2 * (jdbl p).x := by
    rw [jdbl_x_cast, jdbl_x_cast, x, y, z]; ring
  refine ⟨x', ?_, ?_⟩
  · rw [jdbl_y_cast, jdbl_y_cast, x', x, y, z]; ring
  · rw [jdbl_z_cast, jdbl_z_cast, y, z]; ring

/-- Settles O27: TOAFFINE completes with toAffine, whose inverse is exact for every Z in [1, P). -/
theorem toaffineDividesByPowersOfZ : Obligations.ToaffineDividesByPowersOfZ := by
  intro s below
  have operand := inRange_argPoint1 below
  have jacLt := (inRange_iff _).1 operand
  obtain ⟨affX, affY⟩ := toAffine_lt (argPoint1 s)
  refine ⟨_, exec_toaffine_of_inRange operand, completedWith_complete _ s, tableUntouched_complete rfl s, rfl,
    fun zero => ?marked, fun nonzero x y xBelow yBelow => ?unmarked, fun one => ?one⟩
  case marked =>
    rw [toAffine_of_marked (p := argPoint1 s) zero]
    exact ⟨rfl, rfl⟩
  case unmarked =>
    have unique := toAffine_eq_iff jacLt nonzero xBelow yBelow
    rw [← resOf_toNat_of_lt_P affX, ← resOf_toNat_of_lt_P affY] at unique
    exact unique
  case one =>
    rw [toAffine_of_one jacLt one]
    exact ⟨resOf_argNat s 0, resOf_argNat s 1⟩

/-- Settles O28: with h ≠ 0 the formulas of rule R162 are the chord law times powers of Z. -/
theorem jaddIsTheChordLaw : Obligations.JaddIsTheChordLaw := by
  have : Fact Curve.P.Prime := ⟨P_prime⟩
  intro p q pRange qRange nondegenerate x1 y1 x2 y2 l
  obtain ⟨-, -, pBelow⟩ := (inRange_iff p).1 pRange
  obtain ⟨-, -, qBelow⟩ := (inRange_iff q).1 qRange
  obtain ⟨-, -, sumBelow⟩ := jadd_lt p q
  obtain ⟨pz, qz, h⟩ := (jaddDegenerate_eq_false_iff p q).1 nondegenerate
  have z1Ne := cast_ne_zero pz pBelow
  have z2Ne := cast_ne_zero qz qBelow
  have hNe := cast_ne_zero h (subP_lt _ _)
  have hEq := jaddH_cast p q
  have sumZ : (jadd p q).z ≠ 0 := by
    refine ne_zero_of_cast ?_
    rw [jadd_z_cast]
    exact mul_ne_zero hNe (mul_ne_zero z1Ne z2Ne)
  obtain ⟨sumX, sumY⟩ := toAffine_cast_div sumZ sumBelow
  obtain ⟨x1Eq, y1Eq⟩ := toAffine_cast_div pz pBelow
  obtain ⟨x2Eq, y2Eq⟩ := toAffine_cast_div qz qBelow
  have slope : l = (jaddR p q : ZMod Curve.P) / (jaddH p q * (p.z * q.z)) := by
    simp only [l, x1, y1, x2, y2, x1Eq, y1Eq, x2Eq, y2Eq]
    exact chord_slope z1Ne z2Ne hNe hEq (jaddR_cast p q)
  have x : ((toAffine (jadd p q)).x : ZMod Curve.P) = l ^ 2 - x1 - x2 := by
    rw [sumX, slope, jadd_x_cast, jadd_z_cast, jaddU_cast]
    simp only [x1, x2, x1Eq, x2Eq]
    exact chord_x z1Ne z2Ne hNe hEq
  refine ⟨fun same => hNe ?_, sumZ, x, ?_⟩
  · simp only [x1, x2, x1Eq, x2Eq] at same
    rw [hEq, sub_eq_zero]
    exact ((div_eq_div_iff (pow_ne_zero 2 z1Ne) (pow_ne_zero 2 z2Ne)).1 same).symm
  · rw [← x, sumX, sumY, slope, jadd_y_cast, jadd_z_cast, jaddU_cast, jaddS_cast]
    simp only [x1, y1, x1Eq, y1Eq]
    exact chord_y z1Ne z2Ne hNe

/-- Settles O29: with Y and Z not 0 the formulas of rule R164 are the tangent law times powers of Z. -/
theorem jdblIsTheTangentLaw : Obligations.JdblIsTheTangentLaw := by
  have : Fact Curve.P.Prime := ⟨P_prime⟩
  intro p range nondegenerate x y l
  obtain ⟨-, yBelow, zBelow⟩ := (inRange_iff p).1 range
  obtain ⟨-, -, doubleBelow⟩ := jdbl_lt p
  obtain ⟨pz, py⟩ := (jdblDegenerate_eq_false_iff p).1 nondegenerate
  have zNe := cast_ne_zero pz zBelow
  have yNe := cast_ne_zero py yBelow
  have doubleZ : (jdbl p).z ≠ 0 := by
    refine ne_zero_of_cast ?_
    rw [jdbl_z_cast]
    exact mul_ne_zero two_ne_zero_P (mul_ne_zero yNe zNe)
  obtain ⟨doubleX, doubleY⟩ := toAffine_cast_div doubleZ doubleBelow
  obtain ⟨xEq, yEq⟩ := toAffine_cast_div pz zBelow
  have slope : l = (3 * (p.x : ZMod Curve.P) ^ 2 + Curve.A * (p.z : ZMod Curve.P) ^ 4) / (2 * (p.y * p.z)) := by
    simp only [l, x, y, xEq, yEq]
    exact tangent_slope zNe yNe two_ne_zero_P rfl
  have x' : ((toAffine (jdbl p)).x : ZMod Curve.P) = l ^ 2 - 2 * x := by
    rw [doubleX, slope, jdbl_x_cast, jdbl_z_cast]
    simp only [x, xEq]
    exact tangent_x zNe yNe two_ne_zero_P
  refine ⟨?_, doubleZ, x', ?_⟩
  · simp only [y, yEq]
    exact div_ne_zero yNe (pow_ne_zero 3 zNe)
  · rw [← x', doubleX, doubleY, slope, jdbl_y_cast, jdbl_z_cast]
    simp only [x, y, xEq, yEq]
    exact tangent_y zNe yNe two_ne_zero_P

end Sys2Proof.Proofs
end

section
/-! The table of G itself, and the multiplier on scalars of one digit (rules R183, R190 to R195). -/

namespace Sys2Proof.Proofs

open Sys2Proof.Machine Sys2Proof.Laws

/-! The table of G (rule R183): its columns are its rows. -/

theorem tableCol_generator (k : Fin 3) : tableCol Curve.GX Curve.GY k = tableRow k := by
  fin_cases k <;> rfl

theorem toEntry_identity : toEntry { x := 0, y := 0, z := 0 } = { x := 0, y := 0, z := 0 } := rfl

/-- The entries that should be 2G, 4G and 6G are additions of an entry to itself. -/
theorem storeTable_build_generator (k : Fin 3) :
    (storeTable (build Curve.GX Curve.GY))[4 * k.succ.val + k.succ.val] = { x := 0, y := 0, z := 0 } := by
  have entry : (storeTable (build Curve.GX Curve.GY))[4 * k.succ.val + k.succ.val] =
      toEntry (build Curve.GX Curve.GY)[4 * k.succ.val + k.succ.val] :=
    storeTable_get _ ⟨4 * k.succ.val + k.succ.val, by omega⟩
  rw [entry, build_sum, tableCol_generator, jadd_self, toEntry_identity]

theorem buildDegenerate_generator : buildDegenerate Curve.GX Curve.GY = true := by
  rw [buildDegenerate_iff, tableCol_generator]
  exact .inr (.inr (.inr (.inr ⟨0, 0, by rw [tableCol_generator]; exact jaddDegenerate_self _⟩)))

/-! The multiplier on scalars of one digit: 127 rounds that leave the identity, and a copy of one entry. -/

theorem scalarDigit_of_small {u : Nat} (small : u < 4) {i : Nat} (early : i < 127) : scalarDigit u i = 0 := by
  have place : 4 ≤ 2 ^ (254 - 2 * i) := by
    calc 4 = 2 ^ 2 := rfl
      _ ≤ 2 ^ (254 - 2 * i) := Nat.pow_le_pow_right (by decide) (by omega)
  rw [scalarDigit, Nat.div_eq_of_lt (by omega)]

theorem scalarDigit_last {u : Nat} (small : u < 4) : scalarDigit u 127 = u := by
  rw [scalarDigit, show 254 - 2 * 127 = 0 from rfl, pow_zero, Nat.div_one, Nat.mod_eq_of_lt small]

/-- A round from the identity copies the digits' entry, or leaves the identity where both digits are 0 (rule R193). -/
theorem digitRound_identity (t : Vector Jac 16) (d1 d2 : Nat) :
    digitRound t d1 d2 jacIdentity = if 4 * d1 + d2 = 0 then jacIdentity else tableEntry t d1 d2 := by
  simp [digitRound, jacIdentity]

theorem not_digitRoundDegenerate_identity (t : Vector Jac 16) (d1 d2 : Nat) :
    ¬digitRoundDegenerate t d1 d2 jacIdentity := by
  simp [digitRoundDegenerate, jacIdentity]

theorem digitRounds_of_small (t : Vector Jac 16) {u1 u2 : Nat} (small1 : u1 < 4) (small2 : u2 < 4) {n : Nat}
    (early : n ≤ 127) : digitRounds t u1 u2 n = jacIdentity := by
  induction n with
  | zero => rfl
  | succ n ih =>
    rw [digitRounds, ih (by omega), scalarDigit_of_small small1 early, scalarDigit_of_small small2 early,
      digitRound_identity, if_pos rfl]

theorem multiply_of_small (t : Vector Jac 16) {u1 u2 : Nat} (small1 : u1 < 4) (small2 : u2 < 4) :
    multiply t u1 u2 = toAffine (if 4 * u1 + u2 = 0 then jacIdentity else tableEntry t u1 u2) ∧
      multiplyDegenerate t u1 u2 = false := by
  constructor
  · rw [multiply_eq_toAffine_digitRounds, digitRounds, digitRounds_of_small t small1 small2 le_rfl,
      scalarDigit_last small1, scalarDigit_last small2, digitRound_identity]
  · rw [← Bool.not_eq_true, multiplyDegenerate_iff]
    rintro ⟨i, round, degenerate⟩
    rw [digitRounds_of_small t small1 small2 (by omega)] at degenerate
    exact not_digitRoundDegenerate_identity _ _ _ degenerate

/-- SHAMIR of scalars of one digit is the affine form of the digits' entry, and is not degenerate. -/
theorem exec_shamir_of_small {s : State} {a : Affine} (valid : s.status.tableValid = true) (small1 : argNat s 0 < 4)
    (small2 : argNat s 1 < 4)
    (value : toAffine (if 4 * argNat s 0 + argNat s 1 = 0 then jacIdentity
      else tableEntry (loadTable s.table) (argNat s 0) (argNat s 1)) = a) :
    ∃ t, exec .shamir s = .next t ∧ CompletedWith s t .noError false false ∧
      ResultsAre t (resOf a.x) (resOf a.y) 0 := by
  have run := exec_shamir_of_valid valid
  obtain ⟨product, mark⟩ := multiply_of_small (loadTable s.table) small1 small2
  rw [product, mark, value] at run
  exact ⟨_, run, completedWith_complete _ s, rfl, rfl, rfl⟩

end Sys2Proof.Proofs
end

section
/-! The obligations of the table of G and of the multiplier's digits. -/

namespace Sys2Proof.Proofs

open Sys2Proof.Machine Sys2Proof.Laws

/-- Settles O31: building from G adds each row entry to itself. -/
theorem buildFromTheGeneratorIsDegenerate : Obligations.BuildFromTheGeneratorIsDegenerate := by
  intro s x y
  have run := exec_buildTable_of_inRange (s := s) (by rw [x]; decide) (by rw [y]; decide)
  rw [x, y] at run
  exact ⟨_, run, rfl, buildDegenerate_generator, storeTable_build_generator 0, storeTable_build_generator 1,
    storeTable_build_generator 2⟩

/-- Settles O32: a round shifts both scalars by one digit, whatever else it does. -/
theorem multiplierConsumesTwoBitsPerRound : Obligations.MultiplierConsumesTwoBitsPerRound :=
  fun t u1 u2 _ _ _ round => top2_mulRounds t u1 u2 round

/-- Settles O34: a scalar of one digit is read in the last round alone. -/
theorem shamirOfUnitScalars : Obligations.ShamirOfUnitScalars := by
  refine ⟨fun s valid arg0 arg1 => ?zero, fun s px py valid px_lt py_lt table =>
    ⟨fun arg0 arg1 => ?generator, fun arg0 arg1 => ?point⟩⟩
  case zero =>
    have nat0 : argNat s 0 = 0 := congrArg BitVec.toNat arg0
    have nat1 : argNat s 1 = 0 := congrArg BitVec.toNat arg1
    refine exec_shamir_of_small (a := sentinel) valid (by rw [nat0]; decide) (by rw [nat1]; decide) ?_
    rw [nat0, nat1, if_pos rfl, toAffine_of_marked rfl]
  case generator =>
    have nat0 : argNat s 0 = 1 := congrArg BitVec.toNat arg0
    have nat1 : argNat s 1 = 0 := congrArg BitVec.toNat arg1
    refine exec_shamir_of_small (a := { x := Curve.GX, y := Curve.GY }) valid (by rw [nat0]; decide)
      (by rw [nat1]; decide) ?_
    rw [nat0, nat1, table, loadTable_storeTable px_lt py_lt]
    exact toAffine_of_one (tableRow_lt 0) rfl
  case point =>
    have nat0 : argNat s 0 = 0 := congrArg BitVec.toNat arg0
    have nat1 : argNat s 1 = 1 := congrArg BitVec.toNat arg1
    refine exec_shamir_of_small (a := { x := px, y := py }) valid (by rw [nat0]; decide) (by rw [nat1]; decide) ?_
    rw [nat0, nat1, table, loadTable_storeTable px_lt py_lt]
    exact toAffine_of_one (tableCol_lt px_lt py_lt 0) rfl

end Sys2Proof.Proofs
end

section
/-! The group (rules R167, R191, R194): which triples stand for which points of the curve, and that a non-degenerate
evaluation of the datapath is the group's operation. Then the table, and the multiplier by an induction over its rounds. -/

namespace Sys2Proof.Proofs

open Sys2Proof.Machine Sys2Proof.Laws WeierstrassCurve.Affine

/-! The curve's formulas in Mathlib's terms. -/

@[simp] theorem p256_a₁ : p256.a₁ = 0 := rfl
@[simp] theorem p256_a₂ : p256.a₂ = 0 := rfl
@[simp] theorem p256_a₃ : p256.a₃ = 0 := rfl
@[simp] theorem p256_a₄ : p256.a₄ = (Curve.A : ZMod Curve.P) := rfl
@[simp] theorem p256_a₆ : p256.a₆ = (Curve.B : ZMod Curve.P) := rfl

theorem p256_negY (x y : ZMod Curve.P) : p256.negY x y = -y := by simp [negY]

theorem p256_addX (x1 x2 l : ZMod Curve.P) : p256.addX x1 x2 l = l ^ 2 - x1 - x2 := by simp [addX]

theorem p256_addY (x1 x2 y1 l : ZMod Curve.P) : p256.addY x1 x2 y1 l = l * (x1 - (l ^ 2 - x1 - x2)) - y1 := by
  simp only [addY, negAddY, p256_negY, p256_addX]
  ring

/-- A valid key is a point of the group: no curve point has y = 0, so none is singular (rule R32). -/
theorem nonsingular_of_validKey {px py : Nat} (valid : validKey px py = true) :
    p256.Nonsingular (px : ZMod Curve.P) (py : ZMod Curve.P) := by
  have : Fact Curve.P.Prime := ⟨P_prime⟩
  obtain ⟨-, yBelow⟩ := validKey_lt valid
  have yNe := cast_ne_zero (y_pos_of_validKey valid).ne' yBelow
  rw [nonsingular_iff', equation_iff]
  refine ⟨by simpa using curve_equation_of_validKey valid, .inr ?_⟩
  simpa using mul_ne_zero two_ne_zero_P yNe

/-- The group's point of a valid key. -/
def keyPoint {px py : Nat} (valid : validKey px py = true) : p256.Point := .some _ _ (nonsingular_of_validKey valid)

/-- The triple stands for the point: O if its Z is 0, else the point of its affine form. -/
inductive Represents : Jac → p256.Point → Prop where
  | identity {p : Jac} (below : JacLt p) (z : p.z = 0) : Represents p 0
  | point {p : Jac} {x y : ZMod Curve.P} (h : p256.Nonsingular x y) (below : JacLt p) (z : p.z ≠ 0)
      (hx : ((toAffine p).x : ZMod Curve.P) = x) (hy : ((toAffine p).y : ZMod Curve.P) = y) :
      Represents p (.some x y h)

theorem isPoint_of_represents {p : Jac} {Q : p256.Point} (h : Represents p Q) : IsPoint (toAffine p) Q := by
  cases h with
  | identity _ z => exact toAffine_of_marked z
  | point _ _ _ hx hy => exact ⟨hx, hy⟩

theorem eq_zero_of_represents {p : Jac} {Q : p256.Point} (h : Represents p Q) (z : p.z = 0) : Q = 0 := by
  cases h with
  | identity _ _ => rfl
  | point _ _ nonzero _ _ => exact absurd z nonzero

theorem jacLt_of_represents {p : Jac} {Q : p256.Point} (h : Represents p Q) : JacLt p := by
  cases h with
  | identity below _ => exact below
  | point _ below _ _ _ => exact below

/-- A valid key with Z = 1 stands for its point. -/
theorem represents_affine {px py : Nat} (valid : validKey px py = true) :
    Represents { x := px, y := py, z := 1 } (keyPoint valid) := by
  obtain ⟨xBelow, yBelow⟩ := validKey_lt valid
  have below : JacLt { x := px, y := py, z := 1 } := ⟨xBelow, yBelow, by show 1 < Curve.P; decide⟩
  refine .point _ below one_ne_zero ?_ ?_ <;> rw [toAffine_of_one below rfl]

/-! Facts about the table and the digits that the induction uses. -/

/-- The evaluations of a build that is not degenerate. -/
theorem buildDegenerate_eq_false_iff (px py : Nat) :
    buildDegenerate px py = false ↔
      jdblDegenerate (tableCol px py 0) = false ∧ jaddDegenerate (tableCol px py 0) (tableCol px py 1) = false ∧
        jdblDegenerate (tableRow 0) = false ∧ jaddDegenerate (tableRow 0) (tableRow 1) = false ∧
        ∀ row col, jaddDegenerate (tableRow row) (tableCol px py col) = false := by
  rw [← Bool.not_eq_true, buildDegenerate_iff]
  simp only [not_or, not_exists, Bool.not_eq_true]

theorem tableEntry_eq_getElem (t : Vector Jac 16) {d1 d2 : Nat} (inside : 4 * d1 + d2 < 16) :
    tableEntry t d1 d2 = t[4 * d1 + d2] := by
  simp [tableEntry, inside]

theorem scalarDigit_lt (u i : Nat) : scalarDigit u i < 4 := Nat.mod_lt _ (by decide)

/-- The leading digits of a scalar: each round appends one. -/
theorem leadingDigits_succ (u : Nat) {n : Nat} (round : n < 128) :
    u / 2 ^ (256 - 2 * (n + 1)) = 4 * (u / 2 ^ (256 - 2 * n)) + scalarDigit u n := by
  have place : 2 ^ (256 - 2 * n) = 2 ^ (254 - 2 * n) * 4 := by
    rw [show 256 - 2 * n = 254 - 2 * n + 2 by omega, pow_add, show 2 ^ 2 = 4 from rfl]
  rw [scalarDigit, place, ← Nat.div_div_eq_div_mul, show 256 - 2 * (n + 1) = 254 - 2 * n by omega]
  omega

theorem multiply_lt (t : Vector Jac 16) (u1 u2 : Nat) : (multiply t u1 u2).x < Curve.P ∧ (multiply t u1 u2).y < Curve.P :=
  toAffine_lt _

theorem verifySW_degen (h r s qx qy : Nat) :
    (verifySW h r s qx qy).degen =
      (buildDegenerate qx qy || multiplyDegenerate (build qx qy) (mulN h (invValue s Curve.N))
        (mulN r (invValue s Curve.N))) := rfl

theorem verifySW_valid_iff (h r s qx qy : Nat) :
    (verifySW h r s qx qy).valid = true ↔
      (multiply (build qx qy) (mulN h (invValue s Curve.N)) (mulN r (invValue s Curve.N))).x % Curve.N = r :=
  beq_iff_eq

theorem mulN_lt_two_pow (a b : Nat) : mulN a b < 2 ^ 256 :=
  (mulN_lt a b).trans (N_lt_P.trans P_lt_two_pow)

/-- The RES registers hold an affine pair below P as it is (rule R110). -/
theorem affine_of_res {a : Affine} (below : a.x < Curve.P ∧ a.y < Curve.P) :
    { x := (resOf a.x).toNat, y := (resOf a.y).toNat } = a := by
  obtain ⟨x, y⟩ := below
  rw [resOf_toNat_of_lt_P x, resOf_toNat_of_lt_P y]

section

variable [Fact Curve.P.Prime]

/-! The operations. -/

theorem p256_slope_of_X_ne {x1 x2 : ZMod Curve.P} (ne : x1 ≠ x2) (y1 y2 : ZMod Curve.P) :
    p256.slope x1 x2 y1 y2 = (y2 - y1) * (x2 - x1)⁻¹ := by
  rw [slope_of_X_ne ne, ← neg_sub y2, ← neg_sub x2, neg_div_neg_eq, div_eq_mul_inv]

theorem ne_negY_of_ne_zero {y : ZMod Curve.P} (ne : y ≠ 0) (x : ZMod Curve.P) : y ≠ p256.negY x y := by
  rw [p256_negY, ne_eq, eq_neg_iff_add_eq_zero, ← two_mul]
  exact mul_ne_zero two_ne_zero_P ne

theorem p256_slope_self {y : ZMod Curve.P} (ne : y ≠ 0) (x : ZMod Curve.P) :
    p256.slope x x y y = (3 * x ^ 2 + Curve.A) * (2 * y)⁻¹ := by
  rw [slope_of_Y_ne rfl (ne_negY_of_ne_zero ne x), p256_negY, sub_neg_eq_add, ← two_mul, div_eq_mul_inv]
  simp

/-- A non-degenerate addition is the group's (rule R167). -/
theorem represents_jadd {p q : Jac} {Q R : p256.Point} (hp : Represents p Q) (hq : Represents q R)
    (nondegenerate : jaddDegenerate p q = false) : Represents (jadd p q) (Q + R) := by
  obtain ⟨pz, qz, -⟩ := (jaddDegenerate_eq_false_iff p q).1 nondegenerate
  obtain ⟨xNe, z, x, y⟩ := jaddIsTheChordLaw p q ((inRange_iff p).2 (jacLt_of_represents hp))
    ((inRange_iff q).2 (jacLt_of_represents hq)) nondegenerate
  cases hp with
  | identity _ zero => exact absurd zero pz
  | point _ _ _ x1 y1 =>
    cases hq with
    | identity _ zero => exact absurd zero qz
    | point _ _ _ x2 y2 =>
      rw [x1, x2] at xNe
      rw [x1, y1, x2, y2] at x y
      rw [Point.add_of_X_ne xNe]
      refine .point _ (jadd_lt p q) z ?_ ?_
      · rw [x, p256_addX, p256_slope_of_X_ne xNe]
      · rw [y, p256_addY, p256_slope_of_X_ne xNe]

/-- A non-degenerate doubling is the group's (rule R167). -/
theorem represents_jdbl {p : Jac} {Q : p256.Point} (hp : Represents p Q) (nondegenerate : jdblDegenerate p = false) :
    Represents (jdbl p) (Q + Q) := by
  obtain ⟨pz, -⟩ := (jdblDegenerate_eq_false_iff p).1 nondegenerate
  obtain ⟨yNe, z, x, y⟩ := jdblIsTheTangentLaw p ((inRange_iff p).2 (jacLt_of_represents hp)) nondegenerate
  cases hp with
  | identity _ zero => exact absurd zero pz
  | point _ _ _ x1 y1 =>
    rw [y1] at yNe
    rw [x1, y1] at x y
    rw [Point.add_self_of_Y_ne (ne_negY_of_ne_zero yNe _)]
    refine .point _ (jdbl_lt p) z ?_ ?_
    · rw [x, p256_addX, p256_slope_self yNe]; ring
    · rw [y, p256_addY, p256_slope_self yNe]; ring

/-! The table: entry 4·d1 + d2 stands for d1·G + d2·Pt (rules R180, R181). -/

/-- A chain T, 2T, 3T of non-degenerate evaluations stands for the first three multiples. -/
theorem represents_chain {p : Jac} {Q : p256.Point} (hp : Represents p Q) (double : jdblDegenerate p = false)
    (triple : jaddDegenerate p (jdbl p) = false) :
    Represents p (1 • Q) ∧ Represents (jdbl p) (2 • Q) ∧ Represents (jadd p (jdbl p)) (3 • Q) := by
  have two : Represents (jdbl p) (2 • Q) := two_nsmul Q ▸ represents_jdbl hp double
  refine ⟨(one_nsmul Q).symm ▸ hp, two, ?_⟩
  rw [succ_nsmul' Q 2]
  exact represents_jadd hp two triple

theorem represents_tableCol {px py : Nat} (valid : validKey px py = true) (built : buildDegenerate px py = false)
    (col : Fin 3) : Represents (tableCol px py col) (col.succ.val • keyPoint valid) := by
  obtain ⟨double, triple, -⟩ := (buildDegenerate_eq_false_iff px py).1 built
  obtain ⟨one, two, three⟩ := represents_chain (represents_affine valid) double triple
  fin_cases col
  exacts [one, two, three]

theorem represents_tableRow {px py : Nat} (built : buildDegenerate px py = false) (row : Fin 3) :
    Represents (tableRow row) (row.succ.val • keyPoint G_valid) := by
  obtain ⟨-, -, double, triple, -⟩ := (buildDegenerate_eq_false_iff px py).1 built
  obtain ⟨one, two, three⟩ := represents_chain (represents_affine G_valid) double triple
  fin_cases row
  exacts [one, two, three]

theorem represents_tableEntry {px py : Nat} (valid : validKey px py = true) (built : buildDegenerate px py = false)
    (d1 d2 : Fin 4) :
    Represents (tableEntry (build px py) d1 d2) (d1.val • keyPoint G_valid + d2.val • keyPoint valid) := by
  obtain ⟨-, -, -, -, sums⟩ := (buildDegenerate_eq_false_iff px py).1 built
  have hRow := represents_tableRow built
  have hCol := represents_tableCol valid built
  rw [tableEntry_eq_getElem _ (by omega)]
  cases d1 using Fin.cases with
  | zero =>
    cases d2 using Fin.cases with
    | zero =>
      have entry : Represents (build px py)[0] 0 := .identity jacIdentity_lt rfl
      simpa using entry
    | succ col =>
      have entry : Represents (build px py)[col.succ.val] (col.succ.val • keyPoint valid) := build_col px py col ▸ hCol col
      simpa using entry
  | succ row =>
    cases d2 using Fin.cases with
    | zero =>
      have entry : Represents (build px py)[4 * row.succ.val] (row.succ.val • keyPoint G_valid) :=
        build_row px py row ▸ hRow row
      simpa using entry
    | succ col =>
      rw [build_sum]
      exact represents_jadd (hRow row) (hCol col) (sums row col)

/-! The rounds: the accumulator stands for the multiples by the digits read so far (rules R190 to R194). -/

/-- The round's two doublings. -/
theorem represents_doubled {a : Jac} {Q : p256.Point} (ha : Represents a Q)
    (nondegenerate : ¬(a.z ≠ 0 ∧ (jdblDegenerate a = true ∨ jdblDegenerate (jdbl a) = true))) :
    Represents (if a.z = 0 then a else jdbl (jdbl a)) (4 • Q) := by
  split
  case isTrue z =>
    rw [eq_zero_of_represents ha z, nsmul_zero]
    exact .identity (jacLt_of_represents ha) z
  case isFalse z =>
    simp only [ne_eq, z, not_false_eq_true, true_and, not_or, Bool.not_eq_true] at nondegenerate
    obtain ⟨first, second⟩ := nondegenerate
    have four : 4 • Q = (Q + Q) + (Q + Q) := by rw [← two_nsmul, ← two_nsmul, ← mul_nsmul]
    rw [four]
    exact represents_jdbl (represents_jdbl ha first) second

/-- The round's table step, on an accumulator that is already doubled. -/
theorem represents_step {t : Vector Jac 16} {d1 d2 : Nat} {a : Jac} {Q D : p256.Point} (ha : Represents a Q)
    (entry : Represents (tableEntry t d1 d2) D) (skip : 4 * d1 + d2 = 0 → D = 0)
    (nondegenerate : ¬(4 * d1 + d2 ≠ 0 ∧ a.z ≠ 0 ∧ jaddDegenerate a (tableEntry t d1 d2) = true)) :
    Represents (if 4 * d1 + d2 = 0 then a else if a.z = 0 then tableEntry t d1 d2 else jadd a (tableEntry t d1 d2))
      (Q + D) := by
  split_ifs with none z
  · rw [skip none, add_zero]; exact ha
  · rw [eq_zero_of_represents ha z, zero_add]; exact entry
  · simp only [ne_eq, none, z, not_false_eq_true, true_and, Bool.not_eq_true] at nondegenerate
    exact represents_jadd ha entry nondegenerate

theorem represents_digitRound {px py : Nat} (valid : validKey px py = true) (built : buildDegenerate px py = false)
    {d1 d2 : Nat} (digit1 : d1 < 4) (digit2 : d2 < 4) {a : Jac} {Q : p256.Point} (ha : Represents a Q)
    (nondegenerate : ¬digitRoundDegenerate (build px py) d1 d2 a) :
    Represents (digitRound (build px py) d1 d2 a) (4 • Q + (d1 • keyPoint G_valid + d2 • keyPoint valid)) := by
  obtain ⟨doubles, adds⟩ := not_or.1 nondegenerate
  refine represents_step (represents_doubled ha doubles) (represents_tableEntry valid built ⟨d1, digit1⟩ ⟨d2, digit2⟩)
    (fun none => ?_) adds
  obtain ⟨rfl, rfl⟩ : d1 = 0 ∧ d2 = 0 := by omega
  simp

theorem nsmul_append_digits (n1 d1 n2 d2 : Nat) (Q R : p256.Point) :
    (4 * n1 + d1) • Q + (4 * n2 + d2) • R = 4 • (n1 • Q + n2 • R) + (d1 • Q + d2 • R) := by
  rw [add_nsmul, add_nsmul, mul_nsmul', mul_nsmul', nsmul_add]
  abel

/-- After n rounds the accumulator stands for the multiples by the scalars' n leading digits. -/
theorem represents_digitRounds {px py : Nat} (valid : validKey px py = true) (built : buildDegenerate px py = false)
    {u1 u2 : Nat} (fits1 : u1 < 2 ^ 256) (fits2 : u2 < 2 ^ 256) {n : Nat} (rounds : n ≤ 128)
    (nondegenerate : ∀ i, i < n → ¬digitRoundDegenerate (build px py) (scalarDigit u1 i) (scalarDigit u2 i)
      (digitRounds (build px py) u1 u2 i)) :
    Represents (digitRounds (build px py) u1 u2 n)
      ((u1 / 2 ^ (256 - 2 * n)) • keyPoint G_valid + (u2 / 2 ^ (256 - 2 * n)) • keyPoint valid) := by
  induction n with
  | zero =>
    rw [Nat.mul_zero, Nat.sub_zero, Nat.div_eq_of_lt fits1, Nat.div_eq_of_lt fits2, zero_nsmul, zero_nsmul, add_zero]
    exact .identity jacIdentity_lt rfl
  | succ n ih =>
    have before := ih (by omega) fun i early => nondegenerate i (by omega)
    have step := represents_digitRound valid built (scalarDigit_lt u1 n) (scalarDigit_lt u2 n) before
      (nondegenerate n (Nat.lt_succ_self n))
    rw [leadingDigits_succ u1 rounds, leadingDigits_succ u2 rounds]
    rw [nsmul_append_digits]
    exact step

/-- The multiplier without a degenerate evaluation is the group's double-scalar product (rules R191, R194). -/
theorem isPoint_multiply {px py : Nat} (valid : validKey px py = true) (built : buildDegenerate px py = false) {u1 u2 : Nat}
    (fits1 : u1 < 2 ^ 256) (fits2 : u2 < 2 ^ 256) (multiplied : multiplyDegenerate (build px py) u1 u2 = false) :
    IsPoint (multiply (build px py) u1 u2) (u1 • keyPoint G_valid + u2 • keyPoint valid) := by
  rw [← Bool.not_eq_true, multiplyDegenerate_iff] at multiplied
  push Not at multiplied
  have whole := represents_digitRounds valid built fits1 fits2 le_rfl multiplied
  rw [show 256 - 2 * 128 = 0 from rfl, pow_zero, Nat.div_one, Nat.div_one] at whole
  rw [multiply_eq_toAffine_digitRounds]
  exact isPoint_of_represents whole

end

end Sys2Proof.Proofs
end

section
/-! The obligations of the group. -/

namespace Sys2Proof.Proofs

open Sys2Proof.Machine Sys2Proof.Laws

/-- Settles O35: by an induction over the rounds, each non-degenerate round being four times the accumulator's point plus the
digits' entry. -/
theorem shamirIsTheDoubleScalarProduct : Obligations.ShamirIsTheDoubleScalarProduct := by
  intro _ s t px py valid built tableValid table run nondegenerate
  obtain ⟨xBelow, yBelow⟩ := validKey_lt valid
  cases (exec_shamir_of_valid tableValid).symm.trans run
  rw [table, loadTable_storeTable xBelow yBelow] at nondegenerate ⊢
  have product := isPoint_multiply valid built (argNat_lt s 0) (argNat_lt s 1) nondegenerate
  rw [← affine_of_res (multiply_lt _ _ _)] at product
  exact ⟨nonsingular_of_validKey G_valid, nonsingular_of_validKey valid, product⟩

/-- Settles O41: the software path multiplies on the key's table, and the verdict compares the product's x-coordinate. -/
theorem verifyIsEcdsaVerification : Obligations.VerifyIsEcdsaVerification := by
  intro _ s t path wellFormed run nondegenerate
  have software : exec .verify s = .next (verifySoftware s) := by
    rcases path with ⟨op, accelEn, seq, disabled⟩ | ⟨op, p, seq⟩
    · exact exec_verify_software_of_disabled seq disabled wellFormed
    · exact exec_verify_of_answer seq
  cases software.symm.trans run
  obtain ⟨proper, valid⟩ := (wellFormedInput_iff s).1 wellFormed
  obtain ⟨-, -, sPos, low⟩ := (properSig_iff _ _).1 proper
  have twice := two_halfN
  obtain ⟨-, inverse⟩ := mul_invValue_N sPos (by omega)
  obtain ⟨completed, -, verdict, -⟩ := verifySoftware_completes s
  rw [completed.degen, verifySW_degen, Bool.or_eq_false_iff] at nondegenerate
  obtain ⟨built, multiplied⟩ := nondegenerate
  generalize scalar1 : mulN (argNat s 0) (invValue (argNat s 2) Curve.N) = u1 at multiplied
  generalize scalar2 : mulN (argNat s 1) (invValue (argNat s 2) Curve.N) = u2 at multiplied
  have product := isPoint_multiply valid built (scalar1 ▸ mulN_lt_two_pow _ _) (scalar2 ▸ mulN_lt_two_pow _ _) multiplied
  obtain ⟨xBelow, yBelow⟩ := multiply_lt (build (argNat s 3) (argNat s 4)) u1 u2
  refine ⟨nonsingular_of_validKey G_valid, nonsingular_of_validKey valid, invValue (argNat s 2) Curve.N, _, inverse, xBelow,
    yBelow, ?_, ?_⟩
  · rw [show argNat s 0 * _ % _ = u1 from scalar1, show argNat s 1 * _ % _ = u2 from scalar2]
    exact product
  · rw [verdict, boolRes_eq_one_iff, verifySW_valid_iff, scalar1, scalar2]

end Sys2Proof.Proofs
end
